-- ==== Sys2Proof/Word.lean ====
section
/-!
DEFINITION. The word types of the block: 00_scope.md R8 fixes every width. All values are unsigned (R9).
-/

namespace Sys2Proof

/-- A host-visible register, an operand, a result, a command word: 32 bits (R8). -/
abbrev Word := BitVec 32

/-- One byte of a byte space (R10). -/
abbrev Byte := BitVec 8

/-- A 16-bit field: an EtherType, a checksum sum, an IPv4 identification (R8). -/
abbrev Half := BitVec 16

/-- A 6-byte MAC address as the 48-bit number m0..m5, m0 in the high bits (30_encoding.md R87). -/
abbrev Mac := BitVec 48

/-- A 4-byte IPv4 address as the 32-bit number a0..a3, a0 in the high bits (30_encoding.md R87). -/
abbrev IpAddr := BitVec 32

/-- A 12-bit VLAN ID (R8). -/
abbrev Vid := BitVec 12

end Sys2Proof
end

