-- ==== Sys2Proof/Syntax.lean ====
section
/-!
DEFINITION. The commands of the block, one constructor per row of spec/opcode_table.json
(30_encoding.md R83). A command is one word written to CMD; its operands are the registers ARG0..ARG5.
-/

namespace Sys2Proof

/-- The buffer a window command works on: command-word bit 8, B (30_encoding.md R80, R82). -/
inductive Buf where
  /-- B = 0: RX_BUF. -/
  | rx
  /-- B = 1: TX_BUF. -/
  | tx
deriving DecidableEq, Repr

/-- The 20 commands of R83. A window command carries its buffer; a command without a window carries
nothing, so `B = 1` on such a command cannot be written as a term (R81). -/
inductive Instr where
  /-- 0x10 CSUM_CLEAR (R133). -/
  | csumClear
  /-- 0x11 CSUM_BYTES (R134). -/
  | csumBytes (b : Buf)
  /-- 0x12 CSUM_WORD (R135). -/
  | csumWord
  /-- 0x13 CSUM_PSEUDO (R136). -/
  | csumPseudo
  /-- 0x14 CSUM_VERIFY (R138). -/
  | csumVerify
  /-- 0x20 ETH_PARSE (R152). -/
  | ethParse (b : Buf)
  /-- 0x21 ETH_SET_DST (R154). -/
  | ethSetDst (b : Buf)
  /-- 0x22 ETH_SET_SRC (R155). -/
  | ethSetSrc (b : Buf)
  /-- 0x23 ETH_SET_PROTO (R156). -/
  | ethSetProto (b : Buf)
  /-- 0x28 VLAN_STRIP (R172). -/
  | vlanStrip (b : Buf)
  /-- 0x30 ARP_PARSE (R183). -/
  | arpParse (b : Buf)
  /-- 0x31 ARP_SET_SRC_MAP (R185). -/
  | arpSetSrcMap (b : Buf)
  /-- 0x32 ARP_SET_TGT_MAP (R186). -/
  | arpSetTgtMap (b : Buf)
  /-- 0x33 ARP_SET_OPER (R187). -/
  | arpSetOper (b : Buf)
  /-- 0x40 IPV4_PARSE (R203). -/
  | ipv4Parse (b : Buf)
  /-- 0x41 IPV4_INPUT (R204). -/
  | ipv4Input (b : Buf)
  /-- 0x42 FRAG_FLUSH (R213). -/
  | fragFlush
  /-- 0x48 ADDR_ADD (R230). -/
  | addrAdd
  /-- 0x49 ADDR_DEL (R231). -/
  | addrDel
  /-- 0x50 RX_POLL (R233). -/
  | rxPoll
deriving DecidableEq, Repr

/-- The buffer of a window command; `none` for a command without a window (column "window" of R83). -/
def Instr.buf? : Instr → Option Buf
  | .csumClear => none
  | .csumBytes b => some b
  | .csumWord => none
  | .csumPseudo => none
  | .csumVerify => none
  | .ethParse b => some b
  | .ethSetDst b => some b
  | .ethSetSrc b => some b
  | .ethSetProto b => some b
  | .vlanStrip b => some b
  | .arpParse b => some b
  | .arpSetSrcMap b => some b
  | .arpSetTgtMap b => some b
  | .arpSetOper b => some b
  | .ipv4Parse b => some b
  | .ipv4Input b => some b
  | .fragFlush => none
  | .addrAdd => none
  | .addrDel => none
  | .rxPoll => none

end Sys2Proof
end

