-- ==== Sys2Proof/Config.lean ====
section
/-!
DEFINITION. What an implementation fixes (the parameters of 00_scope.md R7 and the base address of
20_memory.md R69) and the free values (the draws of 10_state.md R44 and R47).
-/

namespace Sys2Proof

/-- The implementation parameters of R7 and APF_BASE of 20_memory.md R69. State carries them as
constant data, because a meaning takes the state only (log 1). The field widths are those in which
PARAM0 and PARAM1 report them (10_state.md R26). -/
structure Params where
  /-- RX_BUF_SIZE: bytes in the receive buffer. -/
  rxBufSize : Half
  /-- TX_BUF_SIZE: bytes in the transmit buffer. -/
  txBufSize : Half
  /-- FRAG_BUF_SIZE: bytes per reassembly slot. -/
  fragBufSize : Half
  /-- N_FRAG_SLOTS: number of reassembly slots. -/
  nFragSlots : Byte
  /-- N_IP_ADDRS: capacity of the own-IPv4-address table. -/
  nIpAddrs : Byte
  /-- APF_BASE: where the block sits in the host's address space. -/
  base : Word
deriving DecidableEq, Repr

/-- The defaults of R7 and R69. -/
def Params.default : Params :=
  { rxBufSize := 2048#16, txBufSize := 2048#16, fragBufSize := 65535#16,
    nFragSlots := 4#8, nIpAddrs := 4#8, base := 0#32 }

/-- The three byte spaces of 20_memory.md R61; slot memory is one space per slot. -/
inductive Space where
  /-- RX_BUF. -/
  | rx
  /-- TX_BUF. -/
  | tx
  /-- DATA[s]. -/
  | slot (s : Nat)
deriving DecidableEq, Repr

/-- The answers of the ArpLearn port (10_state.md R44). -/
inductive ArpAnswer where
  | ok
  | noSpace
deriving DecidableEq, Repr, Inhabited

/-- The answers of the Send port (10_state.md R44). -/
inductive SendAnswer where
  | ok
  | fail
deriving DecidableEq, Repr, Inhabited

/-- FREE VALUE (log 3). The byte that space `sp` holds at index `i` after the reset number `epoch`,
until something writes it: "a draw made once at reset" (10_state.md R47, 93 U1). It has no body that
any proof can use. -/
opaque Config.resetByte (epoch : Nat) (sp : Space) (i : Nat) : Byte

/-- FREE VALUE (log 4). What the ArpLearn port answers to the answered request number `n` (R44, 93 U2). -/
opaque Config.arpLearnAnswer (n : Nat) : ArpAnswer

/-- FREE VALUE (log 4). What the Send port answers to the answered request number `n` (R44, 93 U3). -/
opaque Config.sendAnswer (n : Nat) : SendAnswer

end Sys2Proof
end

