-- ==== Sys2Proof/WellFormed.lean ====
section
/-!
DEFINITION. Well-formedness: which command words are legal (30_encoding.md R81), stated from the
columns of R83 and not from the decoder, and which parameters are legal (00_scope.md R7). Every TERM of
`Instr` is well-formed, since the only field a command has is the closed type `Buf`: the checks are on
words.
-/

namespace Sys2Proof

/-- The column "window" of R83: `some true` for the opcode of a window command, `some false` for that of
a command without one, `none` for a reserved opcode (R84). -/
def opcodeWindow (opc : Byte) : Option Bool :=
  if opc ∈ [0x11#8, 0x20#8, 0x21#8, 0x22#8, 0x23#8, 0x28#8, 0x30#8, 0x31#8, 0x32#8, 0x33#8, 0x40#8, 0x41#8] then
    some true
  else if opc ∈ [0x10#8, 0x12#8, 0x13#8, 0x14#8, 0x42#8, 0x48#8, 0x49#8, 0x50#8] then
    some false
  else
    none

/-- The opcode of a word is in the table of R83. -/
def opcodeKnown (c : Word) : Bool := (opcodeWindow (c.extractLsb' 0 8)).isSome

/-- Bits 31:9 of a word are 0 (R80). -/
def reservedZero (c : Word) : Bool := c.extractLsb' 9 23 == 0#23

/-- Bit 8, B, is 0 unless the opcode is that of a window command (R81). -/
def bufferBitAllowed (c : Word) : Bool :=
  !c.getLsbD 8 || opcodeWindow (c.extractLsb' 0 8) == some true

/-- A command word is legal: none of the three conditions of R81 holds. -/
def wordWf (c : Word) : Bool := opcodeKnown c && reservedZero c && bufferBitAllowed c

/-- The legal ranges of R7. APF_BASE has none (R69). -/
def Params.wf (p : Params) : Bool :=
  decide (64 ≤ p.rxBufSize.toNat) && decide (64 ≤ p.txBufSize.toNat) && decide (1 ≤ p.fragBufSize.toNat)
    && decide (1 ≤ p.nFragSlots.toNat) && decide (p.nFragSlots.toNat ≤ 16)
    && decide (1 ≤ p.nIpAddrs.toNat) && decide (p.nIpAddrs.toNat ≤ 16)

end Sys2Proof
end

