-- ==== Sys2Proof/Decode.lean ====
section
/-!
DEFINITION. The decoder of command words (30_encoding.md R80, R81, R83) and, after it, the encoder
written from the same table.
-/

namespace Sys2Proof

/-- Why a command word is illegal: the three conditions of R81, in its order. -/
inductive DecodeError where
  /-- OPC is not in the table of R83. -/
  | reservedOpcode
  /-- One of bits 31:9 is 1. -/
  | reservedBits
  /-- B = 1 and the command has no window. -/
  | bufferBit
deriving DecidableEq, Repr

/-- OPC, bits 7:0 (R80). -/
def opcField (c : Word) : Byte := c.extractLsb' 0 8

/-- B, bit 8 (R80). -/
def bField (c : Word) : Bool := c.getLsbD 8

/-- The reserved field, bits 31:9 (R80). -/
def reservedField (c : Word) : BitVec 23 := c.extractLsb' 9 23

/-- The buffer that B selects (R82). -/
def bufOfBit (b : Bool) : Buf := if b then .tx else .rx

/-- B as a bit (R82). -/
def bitOfBuf : Buf → BitVec 1
  | .rx => 0#1
  | .tx => 1#1

/-- A window command: either value of B is legal. -/
def windowCmd (mk : Buf → Instr) (b : Bool) : Except DecodeError Instr := .ok (mk (bufOfBit b))

/-- A command without a window: B = 1 is illegal (R81). -/
def plainCmd (i : Instr) (b : Bool) : Except DecodeError Instr :=
  if b then .error .bufferBit else .ok i

/-- The opcode map of R83. -/
def decodeOpc (opc : Byte) (b : Bool) : Except DecodeError Instr :=
  if opc = 0x10#8 then plainCmd .csumClear b
  else if opc = 0x11#8 then windowCmd .csumBytes b
  else if opc = 0x12#8 then plainCmd .csumWord b
  else if opc = 0x13#8 then plainCmd .csumPseudo b
  else if opc = 0x14#8 then plainCmd .csumVerify b
  else if opc = 0x20#8 then windowCmd .ethParse b
  else if opc = 0x21#8 then windowCmd .ethSetDst b
  else if opc = 0x22#8 then windowCmd .ethSetSrc b
  else if opc = 0x23#8 then windowCmd .ethSetProto b
  else if opc = 0x28#8 then windowCmd .vlanStrip b
  else if opc = 0x30#8 then windowCmd .arpParse b
  else if opc = 0x31#8 then windowCmd .arpSetSrcMap b
  else if opc = 0x32#8 then windowCmd .arpSetTgtMap b
  else if opc = 0x33#8 then windowCmd .arpSetOper b
  else if opc = 0x40#8 then windowCmd .ipv4Parse b
  else if opc = 0x41#8 then windowCmd .ipv4Input b
  else if opc = 0x42#8 then plainCmd .fragFlush b
  else if opc = 0x48#8 then plainCmd .addrAdd b
  else if opc = 0x49#8 then plainCmd .addrDel b
  else if opc = 0x50#8 then plainCmd .rxPoll b
  else .error .reservedOpcode

/-- `decode(c)` of R81. Total: every word decodes to a command or is rejected by name. -/
def decode (c : Word) : Except DecodeError Instr :=
  match decodeOpc (opcField c) (bField c) with
  | .error e => .error e
  | .ok i => if reservedField c = 0#23 then .ok i else .error .reservedBits

/-- The word of a window command: `zext_32({B, OPC})` (R83). -/
def windowWord (b : Buf) (opc : Byte) : Word := (bitOfBuf b ++ opc).setWidth 32

/-- The word of a command without a window: `zext_32(OPC)` (R83). -/
def plainWord (opc : Byte) : Word := opc.setWidth 32

/-- The encoder: the word of each command (R83). -/
def encode : Instr → Word
  | .csumClear => plainWord 0x10#8
  | .csumBytes b => windowWord b 0x11#8
  | .csumWord => plainWord 0x12#8
  | .csumPseudo => plainWord 0x13#8
  | .csumVerify => plainWord 0x14#8
  | .ethParse b => windowWord b 0x20#8
  | .ethSetDst b => windowWord b 0x21#8
  | .ethSetSrc b => windowWord b 0x22#8
  | .ethSetProto b => windowWord b 0x23#8
  | .vlanStrip b => windowWord b 0x28#8
  | .arpParse b => windowWord b 0x30#8
  | .arpSetSrcMap b => windowWord b 0x31#8
  | .arpSetTgtMap b => windowWord b 0x32#8
  | .arpSetOper b => windowWord b 0x33#8
  | .ipv4Parse b => windowWord b 0x40#8
  | .ipv4Input b => windowWord b 0x41#8
  | .fragFlush => plainWord 0x42#8
  | .addrAdd => plainWord 0x48#8
  | .addrDel => plainWord 0x49#8
  | .rxPoll => plainWord 0x50#8

/-- The instruction the decoder reads from the bits `w` of an opcode-table row of `nbits` bits. A command
is one 32-bit word on the host bus (R80), so the bits are that word; bits at and above `nbits` are 0. -/
def decodeTableWord (nbits w : Nat) : Option Instr :=
  match decode (BitVec.ofNat 32 (w % 2 ^ nbits)) with
  | .ok i => some i
  | .error _ => none

end Sys2Proof
end

