-- ==== Sys2Proof/Machine/State.lean ====
section
/-!
DEFINITION. The state of the block (10_state.md R20 to R48, 20_memory.md R61) as plain data, the host
operations waiting for it, the reasons a step can stop, and the state after reset (R46, R47, R280).
Reserved register bits read 0 and ignore writes (R21), so they are not stored (log 12).
-/

namespace Sys2Proof.Machine

open Sys2Proof

/-- The bytes of one space that something has written, as (index, byte) with the indices strictly rising.
An index that is not listed holds its reset draw `Config.resetByte` (R47; log 3, log 11). -/
abbrev Memory := List Host.Cell

/-- The canonical form of a memory: the indices rise strictly (log 11). -/
def Memory.wf (m : Memory) : Bool := decide (m.Pairwise fun x y => x.1 < y.1)

/-- STATUS (R23). -/
structure Status where
  /-- BUSY, bit 0: never 1 between steps (R288). -/
  busy : Bool
  /-- ERR, bit 1. -/
  err : Bool
  /-- ERR_CODE, bits 15:8. -/
  errCode : Byte
deriving DecidableEq, Repr

/-- CTRL (R27). -/
structure Ctrl where
  /-- MEDIUM, bit 0: true is the IP medium. -/
  medium : Bool
  /-- IP_CSUM_EN, bit 1. -/
  ipCsumEn : Bool
  /-- CSUM_BYPASS, bit 2 (R28). -/
  csumBypass : Bool
deriving DecidableEq, Repr

/-- VLAN_CFG (R33). -/
structure VlanCfg where
  /-- VID0, bits 11:0. -/
  vid0 : Vid
  /-- VID0_EN, bit 12. -/
  vid0En : Bool
  /-- TX_TAG0, bit 13. -/
  txTag0 : Bool
  /-- TX_TAG1, bit 14. -/
  txTag1 : Bool
  /-- VID1, bits 27:16. -/
  vid1 : Vid
  /-- VID1_EN, bit 28. -/
  vid1En : Bool
deriving DecidableEq, Repr

/-- The operand registers ARG0..ARG5 (R29). -/
structure Args where
  a0 : Word
  a1 : Word
  a2 : Word
  a3 : Word
  a4 : Word
  a5 : Word
deriving DecidableEq, Repr

/-- The result registers RES0..RES7 (R30). -/
structure Results where
  r0 : Word
  r1 : Word
  r2 : Word
  r3 : Word
  r4 : Word
  r5 : Word
  r6 : Word
  r7 : Word
deriving DecidableEq, Repr

/-- One entry of the own-address table (R38): IP_ADDR[i] and IP_PREFIX[i][5:0]. -/
structure AddrEntry where
  addr : IpAddr
  plen : BitVec 6
deriving DecidableEq, Repr

/-- One reassembly slot (R40). -/
structure Slot where
  /-- VALID[s]. -/
  valid : Bool
  /-- IDENT[s]. -/
  ident : Half
  /-- DATA[s]. -/
  data : Memory
deriving DecidableEq, Repr

/-- One recorded port request with its answer, where the port answers (R44; log 9). -/
inductive PortEvent where
  /-- ArpLearn(ip, mac). -/
  | arpLearn (ip : IpAddr) (mac : Mac) (answer : ArpAnswer)
  /-- Deliver(proto, payload): no answer. -/
  | deliver (proto : Byte) (payload : List Byte)
  /-- Send(frame). -/
  | send (frame : List Byte) (answer : SendAnswer)
deriving DecidableEq, Repr

/-- The width of a host access. A 16-bit access exists only to be refused by the bus (20_memory.md R63). -/
inductive Width where
  | byte
  | half
  | word
deriving DecidableEq, Repr

/-- One operation of the host or the platform on the block (20_memory.md R63; 70_reset_and_hazards.md R280).
Addresses are host addresses, not yet relative to APF_BASE. -/
inductive HostOp where
  /-- A read. -/
  | read (w : Width) (addr : Word)
  /-- A write; an 8-bit write stores bits 7:0 of `v`. -/
  | write (w : Width) (addr : Word) (v : Word)
  /-- The platform reset. -/
  | reset
deriving DecidableEq, Repr

/-- Why a step stops: the host bus errors of 20_memory.md R64, which the spec says the model takes as a
fault of the host access. Each is SAFE: no state follows from it. -/
inductive Fault where
  /-- Raised by a host access to an address that 20_memory.md R60 does not map. Safe. -/
  | busUnmapped
  /-- Raised by a host access of a width that 20_memory.md R63 does not allow there. Safe. -/
  | busWidth
  /-- Raised by a 32-bit host access at an address that is no multiple of 4 (R63). Safe. -/
  | busMisaligned
  /-- Raised by an aligned 32-bit host access whose four bytes do not lie inside one space (R63). Safe. -/
  | busCrossesEnd
deriving DecidableEq, Repr

/-- Why an instruction has no meaning here. -/
inductive Refusal where
  /-- Raised by `exec` for a command this model gives no meaning. No arm raises it: every command of the
  opcode table has its meaning. Safe. -/
  | notModelled (mnemonic : String)
deriving DecidableEq, Repr

/-- The whole machine. -/
structure State where
  /-- The parameters (R7, R26) and APF_BASE: constant (log 1). -/
  params : Params
  /-- STATUS (R23). -/
  status : Status
  /-- ERR_INFO (R24). -/
  errInfo : Word
  /-- CTRL (R27). -/
  ctrl : Ctrl
  /-- ARG0..ARG5 (R29). -/
  args : Args
  /-- RES0..RES7 (R30). -/
  res : Results
  /-- CSUM_ACC[15:0], the accumulator ACC (R31). -/
  csumAcc : Half
  /-- MAC_HI (R32). -/
  macHi : Word
  /-- MAC_LO[15:0] (R32). -/
  macLo : Half
  /-- VLAN_CFG (R33). -/
  vlanCfg : VlanCfg
  /-- RX_STATUS[0], PENDING (R35). -/
  rxPending : Bool
  /-- RX_LEN[15:0] (R36). -/
  rxLen : Half
  /-- TX_LEN[15:0] (R37). -/
  txLen : Half
  /-- The own-address table; IP_COUNT is its length (R38). -/
  addrs : List AddrEntry
  /-- The reassembly slots, slot 0 first (R40). -/
  slots : List Slot
  /-- RX_BUF (R43). -/
  rxBuf : Memory
  /-- TX_BUF (R43). -/
  txBuf : Memory
  /-- The port requests so far, oldest first (R44). -/
  history : List PortEvent
  /-- The model's own: the number of platform resets so far; selects the reset draws (log 3, log 8). -/
  epoch : Nat
  /-- The model's own: the number of answered port requests so far; selects the next answer (log 4). -/
  draws : Nat
  /-- The model's own: the value the host's latest read returned (log 5). -/
  busData : Option Word
  /-- The model's own: the host operations not yet performed, oldest first (log 2). -/
  inbox : List HostOp
deriving DecidableEq, Repr

/-- A slot after reset: VALID = 0, IDENT = 0, DATA drawn (R40, R47). -/
def Slot.afterReset : Slot := { valid := false, ident := 0#16, data := [] }

/-- The block right after a reset, for given parameters and the model's own fields (R46, R47, R280). -/
def State.afterReset (p : Params) (epoch draws : Nat) (inbox : List HostOp) : State :=
  { params := p
    status := { busy := false, err := false, errCode := 0#8 }
    errInfo := 0#32
    ctrl := { medium := false, ipCsumEn := false, csumBypass := false }
    args := { a0 := 0#32, a1 := 0#32, a2 := 0#32, a3 := 0#32, a4 := 0#32, a5 := 0#32 }
    res := { r0 := 0#32, r1 := 0#32, r2 := 0#32, r3 := 0#32, r4 := 0#32, r5 := 0#32, r6 := 0#32, r7 := 0#32 }
    csumAcc := 0#16
    macHi := 0#32
    macLo := 0#16
    vlanCfg := { vid0 := 0#12, vid0En := false, txTag0 := false, txTag1 := false, vid1 := 0#12, vid1En := false }
    rxPending := false
    rxLen := 0#16
    txLen := 0#16
    addrs := []
    slots := List.replicate p.nFragSlots.toNat Slot.afterReset
    rxBuf := []
    txBuf := []
    history := []
    epoch := epoch
    draws := draws
    busData := none
    inbox := inbox }

/-- The machine right after reset, with the default parameters of R7 and no host operation waiting. -/
def State.reset : State := State.afterReset Params.default 0 0 []

end Sys2Proof.Machine
end

