-- ==== Sys2Proof/Machine/Ops.lean ====
section
/-!
DEFINITION. The named operations every command shares: byte order (20_memory.md R67), memory and the byte
spaces (R61), the two completions of a command (60_exceptions.md R260, R261), the port requests
(10_state.md R44). The block has no return from an error (R265, R270): the next command is simply written
to CMD, so no operation stands beside `raiseErr`.
-/

namespace Sys2Proof.Machine

open Sys2Proof

/-! ### Byte order: big-endian reads and writes on byte strings (00_scope.md R10, 20_memory.md R67) -/

/-- `W[i]` (R10). Every caller has checked `i < |W|`; outside, the value is never used (log 13). -/
def byteAt (w : List Byte) (i : Nat) : Byte := w.getD i 0#8

/-- `rd16(W, i)` (R10). -/
def rd16 (w : List Byte) (i : Nat) : Half := byteAt w i ++ byteAt w (i + 1)

/-- `rd32(W, i)` (R10). -/
def rd32 (w : List Byte) (i : Nat) : Word := rd16 w i ++ rd16 w (i + 2)

/-- `MemRead(W, i, 6)`: a 48-bit number (R11). -/
def rd48 (w : List Byte) (i : Nat) : Mac := rd32 w i ++ rd16 w (i + 4)

/-- The 2 big-endian bytes of `v` (R10). -/
def wr16 (v : Half) : List Byte := [v.extractLsb' 8 8, v.extractLsb' 0 8]

/-- The 4 big-endian bytes of `v` (R10). -/
def wr32 (v : Word) : List Byte :=
  [v.extractLsb' 24 8, v.extractLsb' 16 8, v.extractLsb' 8 8, v.extractLsb' 0 8]

/-- The 6 big-endian bytes of `v` (R10). -/
def wr48 (v : Mac) : List Byte := wr32 (v.extractLsb' 16 32) ++ wr16 (v.extractLsb' 0 16)

/-- One bit as a field of a concatenation. -/
def bit (b : Bool) : BitVec 1 := BitVec.ofBool b

/-- A length or an offset as a 32-bit register value. -/
def word32 (n : Nat) : Word := BitVec.ofNat 32 n

/-! ### Memory -/

/-- The written byte at index `i`, if any. -/
def Memory.lookup : Memory → Nat → Option Byte
  | [], _ => none
  | (k, b) :: m, i => if k = i then some b else Memory.lookup m i

/-- Writes one byte; keeps the indices strictly rising. -/
def Memory.write : Memory → Nat → Byte → Memory
  | [], i, b => [(i, b)]
  | (k, c) :: m, i, b =>
    if i < k then (i, b) :: (k, c) :: m
    else if i = k then (i, b) :: m
    else (k, c) :: Memory.write m i b

/-- `MemWrite` of a byte string from index `i` on, first byte at the lowest index (R11). -/
def Memory.writeBytes (m : Memory) (i : Nat) : List Byte → Memory
  | [] => m
  | b :: bs => Memory.writeBytes (Memory.write m i b) (i + 1) bs

/-! ### The byte spaces (20_memory.md R61) -/

/-- The space a command-word buffer select names (30_encoding.md R82). -/
def spaceOf : Buf → Space
  | .rx => .rx
  | .tx => .tx

/-- The size of a space in bytes (R60, R61). A slot at or above N_FRAG_SLOTS has none. -/
def spaceSize (p : Params) : Space → Nat
  | .rx => p.rxBufSize.toNat
  | .tx => p.txBufSize.toNat
  | .slot k => if k < p.nFragSlots.toNat then p.fragBufSize.toNat else 0

/-- What has been written to a space. -/
def State.memOf (s : State) : Space → Memory
  | .rx => s.rxBuf
  | .tx => s.txBuf
  | .slot k =>
    match s.slots[k]? with
    | some x => x.data
    | none => []

/-- Replaces the contents of slot `k`. -/
def setSlotData (k : Nat) (m : Memory) (slots : List Slot) : List Slot :=
  slots.modify k fun x => { x with data := m }

/-- Replaces what has been written to a space. -/
def State.setMem (s : State) (sp : Space) (m : Memory) : State :=
  match sp with
  | .rx => { s with rxBuf := m }
  | .tx => { s with txBuf := m }
  | .slot k => { s with slots := setSlotData k m s.slots }

/-- The byte of a space at an index: the last value written, or its reset draw (20_memory.md R75). -/
def State.readByte (s : State) (sp : Space) (i : Nat) : Byte :=
  match (s.memOf sp).lookup i with
  | some b => b
  | none => Config.resetByte s.epoch sp i

/-- The `n` bytes of a space from index `i` on (R10). -/
def State.readBytes (s : State) (sp : Space) (i : Nat) : Nat → List Byte
  | 0 => []
  | n + 1 => s.readByte sp i :: State.readBytes s sp (i + 1) n

/-- Writes a byte string to a space from index `i` on. -/
def State.writeBytes (s : State) (sp : Space) (i : Nat) (bs : List Byte) : State :=
  s.setMem sp ((s.memOf sp).writeBytes i bs)

/-! ### Errors and completion (60_exceptions.md R260 to R262) -/

/-- The error codes of R262. -/
inductive ErrCode where
  | illegal
  | bounds
  | wrongLength
  | truncated
  | wrongLengthForArpPacket
  | wrongLengthForEthernetAddress
  | wrongLengthForIpv4Address
  | malformed
  | unknownIpVersion
  | addrFamilyMismatch
  | unexpectedType
  | noSpaceAddrs
  | ipAddrNotFound
  | badPrefix
  | deviceSend
deriving DecidableEq, Repr

/-- The numeric code of an error (R262). -/
def ErrCode.toByte : ErrCode → Byte
  | .illegal => 0x01#8
  | .bounds => 0x02#8
  | .wrongLength => 0x03#8
  | .truncated => 0x04#8
  | .wrongLengthForArpPacket => 0x05#8
  | .wrongLengthForEthernetAddress => 0x06#8
  | .wrongLengthForIpv4Address => 0x07#8
  | .malformed => 0x08#8
  | .unknownIpVersion => 0x09#8
  | .addrFamilyMismatch => 0x0A#8
  | .unexpectedType => 0x0B#8
  | .noSpaceAddrs => 0x0C#8
  | .ipAddrNotFound => 0x0D#8
  | .badPrefix => 0x0E#8
  | .deviceSend => 0x0F#8

/-- `Err(code, info)` of 00_scope.md R11. -/
structure Err where
  code : ErrCode
  info : Word
deriving DecidableEq, Repr

/-- Successful completion: STATUS and ERR_INFO are cleared (R260). -/
def complete (s : State) : State :=
  { s with status := { busy := false, err := false, errCode := 0x00#8 }, errInfo := 0#32 }

/-- TAKING AN ERROR, the hardware's whole trap entry (R261): STATUS and ERR_INFO take the code and the
detail word. `s` is the state the error leaves: the state before the command, with only the surviving
writes of 45_interface.md R247. -/
def raiseErr (e : Err) (s : State) : State :=
  { s with status := { busy := false, err := true, errCode := e.code.toByte }, errInfo := e.info }

/-- The end of a command whose errors leave no surviving write: the state before the command is `s`
(00_scope.md R12). -/
def finish (s : State) : Except Err State → State
  | .ok t => complete t
  | .error e => raiseErr e s

/-! ### Drop reasons and outcomes (60_exceptions.md R266, 30_encoding.md R96) -/

/-- The drop reasons of R266. -/
inductive DropReason where
  | dstMac
  | vlanMismatch
  | unsupportedEthertype
  | l3Ignored
  | arpNotForUs
  | arpNoSpace
  | badCsum
  | ttlZero
  | fragNoSlot
  | fragOverflow
  | l4Ignored
deriving DecidableEq, Repr

/-- The numeric value of a drop reason (R266). -/
def DropReason.toByte : DropReason → Byte
  | .dstMac => 0x01#8
  | .vlanMismatch => 0x02#8
  | .unsupportedEthertype => 0x03#8
  | .l3Ignored => 0x04#8
  | .arpNotForUs => 0x05#8
  | .arpNoSpace => 0x06#8
  | .badCsum => 0x07#8
  | .ttlZero => 0x08#8
  | .fragNoSlot => 0x09#8
  | .fragOverflow => 0x0A#8
  | .l4Ignored => 0x0B#8

/-- The end states of the receive path (R96). -/
inductive OutcomeCode where
  | noFrame
  | dropped
  | arpReply
  | delivered
  | held
deriving DecidableEq, Repr

/-- The numeric value of an outcome, RES0[3:0] (R96). -/
def OutcomeCode.toBits : OutcomeCode → BitVec 4
  | .noFrame => 0#4
  | .dropped => 1#4
  | .arpReply => 2#4
  | .delivered => 3#4
  | .held => 4#4

/-- The REASON byte: 0x00 where nothing is dropped (R266). -/
def reasonByte : Option DropReason → Byte
  | none => 0x00#8
  | some r => r.toByte

/-- The outcome tuple (OUTCOME, REASON, PROTO, SLOT, LEN, IDENT) of 44_ipv4.md R205 and 45_interface.md R233.
`slot = none` is SLOT 0xFF. -/
structure RxOutcome where
  outcome : OutcomeCode
  reason : Option DropReason
  proto : Byte
  slot : Option Nat
  len : Nat
  ident : Half
deriving DecidableEq, Repr

/-- The SLOT byte (R96). -/
def slotByte : Option Nat → Byte
  | none => 0xFF#8
  | some k => BitVec.ofNat 8 k

/-- RES0 of IPV4_INPUT and RX_POLL: `{s[7:0], p[7:0], r[7:0], 4'b0, o[3:0]}` (R96). -/
def RxOutcome.res0 (o : RxOutcome) : Word :=
  slotByte o.slot ++ o.proto ++ reasonByte o.reason ++ 0#4 ++ o.outcome.toBits

/-- RES1 of IPV4_INPUT and RX_POLL: `{id[15:0], n[15:0]}` (R96). -/
def RxOutcome.res1 (o : RxOutcome) : Word := o.ident ++ BitVec.ofNat 16 o.len

/-- Writes an outcome to RES0 and RES1 and to no other result register (R96). -/
def State.putOutcome (s : State) (o : RxOutcome) : State :=
  { s with res := { s.res with r0 := o.res0, r1 := o.res1 } }

/-! ### Port requests (10_state.md R44) -/

/-- `emit Deliver(proto, payload)`: recorded; always accepted. -/
def emitDeliver (proto : Byte) (payload : List Byte) (s : State) : State :=
  { s with history := s.history ++ [.deliver proto payload] }

/-- `emit ArpLearn(ip, mac) -> answer`: recorded with the answer the port drew. -/
def emitArpLearn (ip : IpAddr) (mac : Mac) (answer : ArpAnswer) (s : State) : State :=
  { s with history := s.history ++ [.arpLearn ip mac answer], draws := s.draws + 1 }

/-- `emit Send(frame) -> answer`: recorded with the answer the port drew. -/
def emitSend (frame : List Byte) (answer : SendAnswer) (s : State) : State :=
  { s with history := s.history ++ [.send frame answer], draws := s.draws + 1 }

end Sys2Proof.Machine
end

