-- ==== Sys2Proof/Machine/Operands.lean ====
section
/-!
DEFINITION. Every operand form of 30_encoding.md R86 and R87, the window of R82, and the register layouts
that software reads and writes whole (10_state.md R27, R33).
-/

namespace Sys2Proof.Machine

open Sys2Proof

/-! ### The window (30_encoding.md R82, 20_memory.md R66) -/

/-- ARG0: the base index of the window. -/
def winBase (s : State) : Nat := s.args.a0.toNat

/-- ARG1: the length of the window. -/
def winLen (s : State) : Nat := s.args.a1.toNat

/-- The window lies inside its space: `ARG0 + ARG1 ≤ size(space)` on unbounded naturals. -/
def winInside (b : Buf) (s : State) : Bool :=
  decide (winBase s + winLen s ≤ spaceSize s.params (spaceOf b))

/-- The bytes of the window. -/
def winBytes (b : Buf) (s : State) : List Byte := s.readBytes (spaceOf b) (winBase s) (winLen s)

/-- The error of a window outside its space: BOUNDS with `min(ARG0 + ARG1, 0xFFFFFFFF)` (R82). -/
def winError (s : State) : Err :=
  { code := .bounds, info := word32 (min (winBase s + winLen s) 0xFFFFFFFF) }

/-- `W <- window(B)`, then the command's own body `k`; the body gets the window's bytes. -/
def withWindow (b : Buf) (s : State) (k : List Byte → Except Err State) : State :=
  if winInside b s then finish s (k (winBytes b s)) else raiseErr (winError s) s

/-- Writes a byte string into the window's space at window offset `off`. DEDUCED (log 15): with B = 0 that space is
RX_BUF, as 20_memory.md R62 and the `.rx` words of 41_ethernet.md R154 to R156 and 43_arp.md R185 to R187 say, and as
92_eei_decisions.md D4, D5 and D20 rule, although 10_state.md R45 says that the block never changes RX_BUF. -/
def State.winWrite (s : State) (b : Buf) (off : Nat) (bs : List Byte) : State :=
  s.writeBytes (spaceOf b) (winBase s + off) bs

/-! ### Operand fields (R86, R87) -/

/-- The MAC operand of ETH_SET_DST, ETH_SET_SRC and the ARP set commands: `{ARG2, ARG3[15:0]}`. -/
def argMac (s : State) : Mac := s.args.a2 ++ s.args.a3.extractLsb' 0 16

/-- ARG2[15:0]: the word of CSUM_WORD, the OPER of ARP_SET_OPER. -/
def arg2Low (s : State) : Half := s.args.a2.extractLsb' 0 16

/-- ARG4[7:0] of CSUM_PSEUDO: next_header. -/
def argNextHeader (s : State) : Byte := s.args.a4.extractLsb' 0 8

/-- ARG4[31:16] of CSUM_PSEUDO: length. -/
def argPseudoLen (s : State) : Half := s.args.a4.extractLsb' 16 16

/-- ARG5[1:0] of CSUM_PSEUDO: bit 0, the source is IPv6; bit 1, the destination is IPv6. -/
def argFamilies (s : State) : BitVec 2 := s.args.a5.extractLsb' 0 2

/-- ARG2[2:0] of ETH_SET_PROTO: PKIND. -/
def argPkind (s : State) : BitVec 3 := s.args.a2.extractLsb' 0 3

/-- ARG2[31:16] of ETH_SET_PROTO: ETYPE. -/
def argEtype (s : State) : Half := s.args.a2.extractLsb' 16 16

/-- ARG3[11:0] of ETH_SET_PROTO: VID0. -/
def argVid0 (s : State) : Vid := s.args.a3.extractLsb' 0 12

/-- ARG3[27:16] of ETH_SET_PROTO: VID1. -/
def argVid1 (s : State) : Vid := s.args.a3.extractLsb' 16 12

/-- ARG3[16], HWK of the ARP set commands: true is Unknown(raw HTYPE). -/
def argHwk (s : State) : Bool := s.args.a3.getLsbD 16

/-- ARG3[17], PRK of the ARP set commands: true is Unknown(raw PTYPE). -/
def argPrk (s : State) : Bool := s.args.a3.getLsbD 17

/-- ARG4 of the ARP set commands: the IPv4 address. -/
def argArpIp (s : State) : IpAddr := s.args.a4

/-- ARG5[15:0] of the ARP set commands: the raw HTYPE. -/
def argRawHtype (s : State) : Half := s.args.a5.extractLsb' 0 16

/-- ARG5[31:16] of the ARP set commands: the raw PTYPE. -/
def argRawPtype (s : State) : Half := s.args.a5.extractLsb' 16 16

/-- ARG2[7:0] of FRAG_FLUSH: the slot number, 0xFF for all. -/
def argSlot (s : State) : Byte := s.args.a2.extractLsb' 0 8

/-- ARG2 of ADDR_ADD and ADDR_DEL: the IPv4 address. -/
def argIp (s : State) : IpAddr := s.args.a2

/-- ARG3[7:0] of ADDR_ADD and ADDR_DEL: the prefix length. -/
def argPrefixLen (s : State) : Byte := s.args.a3.extractLsb' 0 8

/-! ### Register layouts -/

/-- OWN_MAC = `{MAC_HI, MAC_LO[15:0]}` (10_state.md R32). -/
def ownMac (s : State) : Mac := s.macHi ++ s.macLo

/-- CTRL as software reads it (R27): bits 31:3 read 0. -/
def Ctrl.toWord (c : Ctrl) : Word := 0#29 ++ bit c.csumBypass ++ bit c.ipCsumEn ++ bit c.medium

/-- CTRL from a written word (R27): bits 31:3 are ignored. -/
def Ctrl.ofWord (w : Word) : Ctrl :=
  { medium := w.getLsbD 0, ipCsumEn := w.getLsbD 1, csumBypass := w.getLsbD 2 }

/-- VLAN_CFG as software reads it (R33): bits 15 and 31:29 read 0. -/
def VlanCfg.toWord (v : VlanCfg) : Word :=
  0#3 ++ bit v.vid1En ++ v.vid1 ++ 0#1 ++ bit v.txTag1 ++ bit v.txTag0 ++ bit v.vid0En ++ v.vid0

/-- VLAN_CFG from a written word (R33): bits 15 and 31:29 are ignored. -/
def VlanCfg.ofWord (w : Word) : VlanCfg :=
  { vid0 := w.extractLsb' 0 12, vid0En := w.getLsbD 12, txTag0 := w.getLsbD 13,
    txTag1 := w.getLsbD 14, vid1 := w.extractLsb' 16 12, vid1En := w.getLsbD 28 }

/-- IP_ADDR[i]: 0 at or above IP_COUNT (R38). -/
def ipAddrReg (s : State) (i : Nat) : Word :=
  match s.addrs[i]? with
  | some e => e.addr
  | none => 0#32

/-- IP_PREFIX[i]: 0 at or above IP_COUNT; bits 31:6 read 0 (R38). -/
def ipPrefixReg (s : State) (i : Nat) : Word :=
  match s.addrs[i]? with
  | some e => e.plen.setWidth 32
  | none => 0#32

/-- `owned(a)`: some table entry has this address; the prefix takes no part (R39). -/
def owned (s : State) (a : IpAddr) : Bool := s.addrs.any fun e => e.addr == a

end Sys2Proof.Machine
end

