-- ==== Sys2Proof/Machine/Flags.lean ====
section
/-!
DEFINITION. The status flags of 10_state.md R48 and how each is computed, and the ones'-complement
arithmetic they rest on (40_checksum.md R130, R131, R137). Writers: BUSY and ERR by `complete` and
`raiseErr` (Ops), PENDING by the host and RX_POLL, VALID[s] by the slot operations (Ipv4).
-/

namespace Sys2Proof.Machine

open Sys2Proof

/-! ### Ones'-complement arithmetic (40_checksum.md) -/

/-- `fold` with a bound on the number of rounds: while `s > 0xFFFF`, `s <- (s & 0xFFFF) + (s >> 16)` (R130). -/
def foldRounds : Nat → Nat → Nat
  | 0, s => s
  | n + 1, s => if s > 0xFFFF then foldRounds n (s % 0x10000 + s / 0x10000) else s

/-- `fold(s)` (R130). Each round makes `s` smaller, so `s` rounds are enough. -/
def fold (s : Nat) : Half := BitVec.ofNat 16 (foldRounds s s)

/-- `ocadd(a, b) = fold(a + b)` (R130). -/
def ocadd (a b : Half) : Half := fold (a.toNat + b.toNat)

/-- The unfolded sum of the big-endian 16-bit words of a byte string; a last odd byte is the high byte of a
word whose low byte is 0 (R131). -/
def csumTotal : List Byte → Nat
  | [] => 0
  | [a] => a.toNat * 0x100
  | a :: b :: t => a.toNat * 0x100 + b.toNat + csumTotal t

/-- `csum(b)`: the RFC 1071 folded sum, not complemented (R131). -/
def csum (bs : List Byte) : Half := fold (csumTotal bs)

/-- `pseudo4(src, dst, nh, len)`: the sum of the 12-byte IPv4 pseudo-header (R137, 30_encoding.md R109). -/
def pseudo4 (src dst : IpAddr) (nh : Byte) (len : Half) : Half :=
  csum (wr32 src ++ wr32 dst ++ [0x00#8, nh] ++ wr16 len)

/-! ### The flags (10_state.md R48) -/

/-- VERIFY: the accumulator is all-ones (40_checksum.md R138). -/
def verifyFlag (acc : Half) : Bool := acc == 0xFFFF#16

/-- CSUM_OK: the bypass is on, or the header bytes sum to all-ones (44_ipv4.md R202). -/
def csumOkFlag (bypass : Bool) (header : List Byte) : Bool := bypass || csum header == 0xFFFF#16

/-- DF: bit 14 of the flags/offset field (30_encoding.md R107). -/
def dfFlag (ff : Half) : Bool := ff.getLsbD 14

/-- MF: bit 13 of the flags/offset field (R107). -/
def mfFlag (ff : Half) : Bool := ff.getLsbD 13

/-- The fragment offset in octets: bits 12:0 of the flags/offset field, times 8 (R107). -/
def fragOff (ff : Half) : Nat := (ff.extractLsb' 0 13).toNat * 8

/-- STATUS as software reads it: `{16'b0, ERR_CODE, 6'b0, ERR, BUSY}` (10_state.md R23). -/
def Status.toWord (t : Status) : Word := 0#16 ++ t.errCode ++ 0#6 ++ bit t.err ++ bit t.busy

/-- RX_STATUS as software reads it: PENDING in bit 0 (R35). -/
def rxStatusWord (s : State) : Word := 0#31 ++ bit s.rxPending

/-- FRAG_STAT[s]: `{IDENT[s], 15'b0, VALID[s]}` (R40). -/
def fragStatReg (s : State) (k : Nat) : Word :=
  match s.slots[k]? with
  | some x => x.ident ++ 0#15 ++ bit x.valid
  | none => 0#32

end Sys2Proof.Machine
end

