-- ==== Sys2Proof/Machine/Bus.lean ====
section
/-!
DEFINITION. Host accesses: the register map (10_state.md R21), the address map (20_memory.md R60), the legal
widths and alignments (R63, R64), and what a read returns and a write changes (R65, R68).
A write to CMD is not here: it starts a command (Machine/Command.lean).
-/

namespace Sys2Proof.Machine

open Sys2Proof

/-- The registers of R21. -/
inductive Reg where
  | cmd
  | status
  | errInfo
  | ctrl
  | arg0
  | arg1
  | arg2
  | arg3
  | arg4
  | arg5
  | res0
  | res1
  | res2
  | res3
  | res4
  | res5
  | res6
  | res7
  | csumAcc
  | macHi
  | macLo
  | vlanCfg
  | rxStatus
  | rxLen
  | txLen
  | ipCount
  | ipAddr (i : Nat)
  | ipPrefix (i : Nat)
  | fragStat (k : Nat)
  | param0
  | param1
  | id
deriving DecidableEq, Repr

/-- The registers at a fixed offset (R21), lowest offset first. -/
def fixedRegs : List (Nat × Reg) :=
  [(0x000, .cmd), (0x004, .status), (0x008, .errInfo), (0x00C, .ctrl),
   (0x010, .arg0), (0x014, .arg1), (0x018, .arg2), (0x01C, .arg3), (0x020, .arg4), (0x024, .arg5),
   (0x040, .res0), (0x044, .res1), (0x048, .res2), (0x04C, .res3),
   (0x050, .res4), (0x054, .res5), (0x058, .res6), (0x05C, .res7),
   (0x060, .csumAcc), (0x064, .macHi), (0x068, .macLo), (0x06C, .vlanCfg),
   (0x070, .rxStatus), (0x074, .rxLen), (0x078, .txLen), (0x07C, .ipCount),
   (0x140, .param0), (0x144, .param1), (0x148, .id)]

/-- The register at an offset in a table of fixed registers. -/
def regLookup : List (Nat × Reg) → Nat → Option Reg
  | [], _ => none
  | (o, r) :: t, off => if o = off then some r else regLookup t off

/-- The registers with an index: IP_ADDR[i] at 0x080 + 8i and IP_PREFIX[i] at 0x084 + 8i for
i < N_IP_ADDRS, FRAG_STAT[s] at 0x100 + 4s for s < N_FRAG_SLOTS (R21). -/
def indexedReg (p : Params) (off : Nat) : Option Reg :=
  if 0x080 ≤ off ∧ off < 0x080 + 8 * p.nIpAddrs.toNat ∧ off % 8 = 0 then some (.ipAddr ((off - 0x080) / 8))
  else if 0x084 ≤ off ∧ off < 0x084 + 8 * p.nIpAddrs.toNat ∧ off % 8 = 4 then some (.ipPrefix ((off - 0x084) / 8))
  else if 0x100 ≤ off ∧ off < 0x100 + 4 * p.nFragSlots.toNat ∧ off % 4 = 0 then some (.fragStat ((off - 0x100) / 4))
  else none

/-- The register at a byte offset of the register space; `none` is unmapped (R21). -/
def regAt (p : Params) (off : Nat) : Option Reg :=
  match regLookup fixedRegs off with
  | some r => some r
  | none => indexedReg p off

/-- The offset of RX_BUF byte 0 (R60). -/
def rxBufOffset : Nat := 0x00010000

/-- The offset of TX_BUF byte 0 (R60). -/
def txBufOffset : Nat := 0x00020000

/-- The offset of DATA[0] byte 0 (R60). -/
def slotOffset : Nat := 0x00100000

/-- The distance between two slots (R60). -/
def slotStride : Nat := 0x10000

/-- The offset at which a space starts (R60). -/
def spaceOffset : Space → Nat
  | .rx => rxBufOffset
  | .tx => txBufOffset
  | .slot k => slotOffset + slotStride * k

/-- The space and index at an offset outside the register space; `none` is unmapped (R60). -/
def spaceAt (p : Params) (off : Nat) : Option (Space × Nat) :=
  if rxBufOffset ≤ off ∧ off - rxBufOffset < p.rxBufSize.toNat then some (.rx, off - rxBufOffset)
  else if txBufOffset ≤ off ∧ off - txBufOffset < p.txBufSize.toNat then some (.tx, off - txBufOffset)
  else if slotOffset ≤ off ∧ (off - slotOffset) / slotStride < p.nFragSlots.toNat
      ∧ (off - slotOffset) % slotStride < p.fragBufSize.toNat then
    some (.slot ((off - slotOffset) / slotStride), (off - slotOffset) % slotStride)
  else none

/-- What a host access reaches. -/
inductive Target where
  /-- A register, as a 32-bit word. -/
  | reg (r : Reg)
  /-- One byte of a space. -/
  | byteIn (sp : Space) (i : Nat)
  /-- Four bytes of a space. -/
  | wordIn (sp : Space) (i : Nat)
deriving DecidableEq, Repr

/-- An access to the register space: aligned 32-bit words only (R63). -/
def regTarget (p : Params) (w : Width) (off : Nat) : Except Fault Target :=
  if w ≠ .word then .error .busWidth
  else if off % 4 ≠ 0 then .error .busMisaligned
  else
    match regAt p off with
    | some r => .ok (.reg r)
    | none => .error .busUnmapped

/-- An access to a byte space: 8-bit anywhere, 32-bit at a multiple of 4 with all four bytes inside (R63). -/
def spaceTarget (p : Params) (w : Width) (off : Nat) : Except Fault Target :=
  match spaceAt p off with
  | none => .error .busUnmapped
  | some (sp, i) =>
    match w with
    | .byte => .ok (.byteIn sp i)
    | .half => .error .busWidth
    | .word =>
      if off % 4 ≠ 0 then .error .busMisaligned
      else if i + 4 ≤ spaceSize p sp then .ok (.wordIn sp i)
      else .error .busCrossesEnd

/-- What a host access at an address reaches, or the bus error (R60, R63, R64). Addresses are relative to
APF_BASE (R69; log 6). -/
def accessTarget (p : Params) (w : Width) (addr : Word) : Except Fault Target :=
  if addr.toNat < p.base.toNat then .error .busUnmapped
  else if addr.toNat - p.base.toNat < 0x1000 then regTarget p w (addr.toNat - p.base.toNat)
  else spaceTarget p w (addr.toNat - p.base.toNat)

/-- The value a register reads as (R21 to R40). Reads have no side effect (R65). -/
def readReg (s : State) : Reg → Word
  | .cmd => 0#32
  | .status => s.status.toWord
  | .errInfo => s.errInfo
  | .ctrl => s.ctrl.toWord
  | .arg0 => s.args.a0
  | .arg1 => s.args.a1
  | .arg2 => s.args.a2
  | .arg3 => s.args.a3
  | .arg4 => s.args.a4
  | .arg5 => s.args.a5
  | .res0 => s.res.r0
  | .res1 => s.res.r1
  | .res2 => s.res.r2
  | .res3 => s.res.r3
  | .res4 => s.res.r4
  | .res5 => s.res.r5
  | .res6 => s.res.r6
  | .res7 => s.res.r7
  | .csumAcc => s.csumAcc.setWidth 32
  | .macHi => s.macHi
  | .macLo => s.macLo.setWidth 32
  | .vlanCfg => s.vlanCfg.toWord
  | .rxStatus => rxStatusWord s
  | .rxLen => s.rxLen.setWidth 32
  | .txLen => s.txLen.setWidth 32
  | .ipCount => (BitVec.ofNat 8 s.addrs.length).setWidth 32
  | .ipAddr i => ipAddrReg s i
  | .ipPrefix i => ipPrefixReg s i
  | .fragStat k => fragStatReg s k
  | .param0 => s.params.txBufSize ++ s.params.rxBufSize
  | .param1 => s.params.nIpAddrs ++ s.params.nFragSlots ++ s.params.fragBufSize
  | .id => 0x41504601#32

/-- A host write to a register other than CMD: RW registers take the value, less their reserved bits; the
others ignore it (R21). -/
def writeReg (s : State) (r : Reg) (v : Word) : State :=
  match r with
  | .ctrl => { s with ctrl := Ctrl.ofWord v }
  | .arg0 => { s with args := { s.args with a0 := v } }
  | .arg1 => { s with args := { s.args with a1 := v } }
  | .arg2 => { s with args := { s.args with a2 := v } }
  | .arg3 => { s with args := { s.args with a3 := v } }
  | .arg4 => { s with args := { s.args with a4 := v } }
  | .arg5 => { s with args := { s.args with a5 := v } }
  | .macHi => { s with macHi := v }
  | .macLo => { s with macLo := v.extractLsb' 0 16 }
  | .vlanCfg => { s with vlanCfg := VlanCfg.ofWord v }
  | .rxStatus => { s with rxPending := v.getLsbD 0 }
  | .rxLen => { s with rxLen := v.extractLsb' 0 16 }
  | .cmd | .status | .errInfo | .res0 | .res1 | .res2 | .res3 | .res4 | .res5 | .res6 | .res7 | .csumAcc
  | .txLen | .ipCount | .ipAddr _ | .ipPrefix _ | .fragStat _ | .param0 | .param1 | .id => s

/-- The host may write this space: RX_BUF and TX_BUF, not slot memory (R61). -/
def hostWritable : Space → Bool
  | .rx => true
  | .tx => true
  | .slot _ => false

/-- A host write of bytes to a space; a write to slot memory is ignored (R61). -/
def hostWrite (s : State) (sp : Space) (i : Nat) (bs : List Byte) : State :=
  if hostWritable sp then s.writeBytes sp i bs else s

/-- The value a legal read returns: a register; a byte zero-extended (log 5); four bytes as a big-endian
number, the lowest address in bits 31:24 (R68). -/
def readTarget (s : State) : Target → Word
  | .reg r => readReg s r
  | .byteIn sp i => (s.readByte sp i).setWidth 32
  | .wordIn sp i => rd32 (s.readBytes sp i 4) 0

/-- A host read: the value goes to the host (R64: a read that is not allowed returns no value). -/
def hostRead (w : Width) (addr : Word) (s : State) : Host.Outcome State Fault Refusal :=
  match accessTarget s.params w addr with
  | .error e => .fault e
  | .ok t => .next { s with busData := some (readTarget s t) }

end Sys2Proof.Machine
end

