-- ==== Sys2Proof/Machine/Checksum.lean ====
section
/-!
DEFINITION. The checksum family (40_checksum.md R133 to R138).
-/

namespace Sys2Proof.Machine

open Sys2Proof

/-- The outcome of a command: it always completes, successfully or with an error (60_exceptions.md R268). -/
abbrev CmdResult := Host.Outcome State Fault Refusal

/-- CSUM_CLEAR (R133). -/
def execCsumClear (s : State) : CmdResult :=
  .next (complete { s with csumAcc := 0x0000#16 })

/-- CSUM_BYTES (R134). -/
def execCsumBytes (b : Buf) (s : State) : CmdResult :=
  .next (withWindow b s fun w => .ok { s with csumAcc := ocadd s.csumAcc (csum w) })

/-- CSUM_WORD (R135). -/
def execCsumWord (s : State) : CmdResult :=
  .next (complete { s with csumAcc := ocadd s.csumAcc (arg2Low s) })

/-- The body of CSUM_PSEUDO (R136). -/
def csumPseudoBody (s : State) : Except Err State :=
  if argFamilies s ≠ 0#2 then
    .error { code := .addrFamilyMismatch, info := (argFamilies s).setWidth 32 }
  else
    .ok { s with csumAcc := ocadd s.csumAcc (pseudo4 s.args.a2 s.args.a3 (argNextHeader s) (argPseudoLen s)) }

/-- CSUM_PSEUDO (R136). -/
def execCsumPseudo (s : State) : CmdResult := .next (finish s (csumPseudoBody s))

/-- CSUM_VERIFY (R138). -/
def execCsumVerify (s : State) : CmdResult :=
  .next (complete { s with res := { s.res with r0 := (bit (verifyFlag s.csumAcc)).setWidth 32 } })

end Sys2Proof.Machine
end

