-- ==== Sys2Proof/Machine/Ethernet.lean ====
section
/-!
DEFINITION. The Ethernet family (41_ethernet.md R150 to R158).
-/

namespace Sys2Proof.Machine

open Sys2Proof

/-- The protocol variants, PKIND (30_encoding.md R92). -/
inductive PKind where
  | l3
  | q
  | qinq
  | length
  | unknown
deriving DecidableEq, Repr

/-- The PKIND codes (R92). -/
def PKind.toBits : PKind → BitVec 3
  | .l3 => 0#3
  | .q => 1#3
  | .qinq => 2#3
  | .length => 3#3
  | .unknown => 4#3

/-- The PKIND a code stands for; 5..7 are reserved (R84, R92). -/
def PKind.ofBits? (k : BitVec 3) : Option PKind :=
  if k = 0#3 then some .l3
  else if k = 1#3 then some .q
  else if k = 2#3 then some .qinq
  else if k = 3#3 then some .length
  else if k = 4#3 then some .unknown
  else none

/-- The L3 classes (R92). -/
inductive L3Class where
  | ipv4
  | arp
  | ipv6
  | other
deriving DecidableEq, Repr

/-- The L3 class codes (R92). -/
def L3Class.toBits : L3Class → BitVec 2
  | .ipv4 => 0#2
  | .arp => 1#2
  | .ipv6 => 2#2
  | .other => 3#2

/-- The 802.1Q TPID, of both tag levels (30_encoding.md R101). -/
def tpid : Half := 0x8100#16

/-- `l3class(v)` (41_ethernet.md R151). -/
def l3class (v : Half) : L3Class :=
  if v = 0x0800#16 then .ipv4
  else if v = 0x0806#16 then .arp
  else if v = 0x86DD#16 then .ipv6
  else .other

/-- What `eth_classify` returns (R151). -/
structure EthInfo where
  pkind : PKind
  l3 : L3Class
  hdr : Nat
  etype : Half
  vid0 : Vid
  vid1 : Vid
deriving DecidableEq, Repr

/-- WRONG_LENGTH with the header length needed (R151). -/
def wrongLength (need : Nat) : Err := { code := .wrongLength, info := word32 need }

/-- The VLAN ID of a TCI: bits 11:0 (30_encoding.md R102). -/
def tciVid (tci : Half) : Vid := tci.extractLsb' 0 12

/-- A TCI as a builder writes it: bits 15:12 are 0 (R102). -/
def tciOf (vid : Vid) : Half := vid.setWidth 16

/-- `eth_classify(W)` (R151). -/
def ethClassify (w : List Byte) : Except Err EthInfo :=
  if w.length < 14 then .error (wrongLength 14)
  else if rd16 w 12 = tpid then
    if w.length < 18 then .error (wrongLength 18)
    else if rd16 w 16 = tpid then
      if w.length < 22 then .error (wrongLength 22)
      else .ok { pkind := .qinq, l3 := l3class (rd16 w 20), hdr := 22, etype := rd16 w 20,
                 vid0 := tciVid (rd16 w 14), vid1 := tciVid (rd16 w 18) }
    else .ok { pkind := .q, l3 := l3class (rd16 w 16), hdr := 18, etype := rd16 w 16,
               vid0 := tciVid (rd16 w 14), vid1 := 0#12 }
  else if (rd16 w 12).toNat < 0x05DC then
    .ok { pkind := .length, l3 := .other, hdr := 14, etype := rd16 w 12, vid0 := 0#12, vid1 := 0#12 }
  else if l3class (rd16 w 12) ≠ .other then
    .ok { pkind := .l3, l3 := l3class (rd16 w 12), hdr := 14, etype := rd16 w 12, vid0 := 0#12, vid1 := 0#12 }
  else
    .ok { pkind := .unknown, l3 := .other, hdr := 14, etype := rd16 w 12, vid0 := 0#12, vid1 := 0#12 }

/-- RES0 of ETH_PARSE: `{etype, hdr[7:0], 2'b00, l3, 1'b0, pkind}` (R152). -/
def EthInfo.res0 (f : EthInfo) : Word :=
  f.etype ++ BitVec.ofNat 8 f.hdr ++ 0#2 ++ f.l3.toBits ++ 0#1 ++ f.pkind.toBits

/-- RES1 of ETH_PARSE: `{4'b0, vid1, 4'b0, vid0}` (R152). -/
def EthInfo.res1 (f : EthInfo) : Word := 0#4 ++ f.vid1 ++ 0#4 ++ f.vid0

/-- RES0..RES5 as ETH_PARSE writes them (R152, 30_encoding.md R91). -/
def ethResults (w : List Byte) (f : EthInfo) (r : Results) : Results :=
  { r with
    r0 := f.res0
    r1 := f.res1
    r2 := rd32 w 0
    r3 := (rd16 w 4).setWidth 32
    r4 := rd32 w 6
    r5 := (rd16 w 10).setWidth 32 }

/-- The body of ETH_PARSE (R152). -/
def ethParseBody (s : State) (w : List Byte) : Except Err State :=
  match ethClassify w with
  | .error e => .error e
  | .ok f => .ok { s with res := ethResults w f s.res }

/-- ETH_PARSE (R152). -/
def execEthParse (b : Buf) (s : State) : CmdResult := .next (withWindow b s (ethParseBody s))

/-- A set command that needs the first `need` bytes of its window: BOUNDS with `need` if the window is
shorter; otherwise it writes `bs` at window offset `off` (R154, R155). -/
def setField (b : Buf) (s : State) (need off : Nat) (bs : List Byte) : Except Err State :=
  if winLen s < need then .error { code := .bounds, info := word32 need }
  else .ok (s.winWrite b off bs)

/-- ETH_SET_DST (R154). -/
def execEthSetDst (b : Buf) (s : State) : CmdResult :=
  .next (withWindow b s fun _ => setField b s 6 0 (wr48 (argMac s)))

/-- ETH_SET_SRC (R155). -/
def execEthSetSrc (b : Buf) (s : State) : CmdResult :=
  .next (withWindow b s fun _ => setField b s 12 6 (wr48 (argMac s)))

/-- The header length a PKIND needs (R156). -/
def protoNeed : PKind → Nat
  | .l3 => 14
  | .q => 18
  | .qinq => 22
  | .length => 14
  | .unknown => 14

/-- The bytes ETH_SET_PROTO writes from window offset 12 on (R156). -/
def protoBytes (k : PKind) (et : Half) (v0 v1 : Vid) : List Byte :=
  match k with
  | .l3 => wr16 et
  | .length => wr16 et
  | .unknown => wr16 et
  | .q => wr16 tpid ++ wr16 (tciOf v0) ++ wr16 et
  | .qinq => wr16 tpid ++ wr16 (tciOf v0) ++ wr16 tpid ++ wr16 (tciOf v1) ++ wr16 et

/-- The body of ETH_SET_PROTO (R156). -/
def ethSetProtoBody (b : Buf) (s : State) : Except Err State :=
  match PKind.ofBits? (argPkind s) with
  | none => .error { code := .illegal, info := s.args.a2 }
  | some k => setField b s (protoNeed k) 12 (protoBytes k (argEtype s) (argVid0 s) (argVid1 s))

/-- ETH_SET_PROTO (R156). -/
def execEthSetProto (b : Buf) (s : State) : CmdResult :=
  .next (withWindow b s fun _ => ethSetProtoBody b s)

end Sys2Proof.Machine
end

