-- ==== Sys2Proof/Machine/Arp.lean ====
section
/-!
DEFINITION. The ARP family (43_arp.md R180 to R189).
-/

namespace Sys2Proof.Machine

open Sys2Proof

/-- HTYPE of Ethernet (30_encoding.md R106). -/
def htypeEthernet : Half := 0x0001#16

/-- PTYPE of IPv4 (30_encoding.md R106). -/
def ptypeIpv4 : Half := 0x0800#16

/-- `arp_check_len(W)`: the declared hardware and protocol address lengths (R181). -/
def arpCheckLen (w : List Byte) : Except Err (Nat × Nat) :=
  if w.length < 8 then .error { code := .truncated, info := word32 8 }
  else
    let hl := (byteAt w 4).toNat
    let pl := (byteAt w 5).toNat
    if w.length < 8 + 2 * hl + 2 * pl then
      .error { code := .wrongLengthForArpPacket, info := word32 (8 + 2 * hl + 2 * pl) }
    else .ok (hl, pl)

/-- What `arp_addrs` returns (R182). An address of an Unknown type reads as 0. -/
structure ArpInfo where
  htype : Half
  ptype : Half
  hlen : Nat
  plen : Nat
  sha : Mac
  spa : IpAddr
  tha : Mac
  tpa : IpAddr
deriving DecidableEq, Repr

/-- `arp_addrs(W)` (R182). -/
def arpAddrs (w : List Byte) : Except Err ArpInfo :=
  match arpCheckLen w with
  | .error e => .error e
  | .ok (hl, pl) =>
    let ht := rd16 w 0
    let pt := rd16 w 2
    if ht = htypeEthernet ∧ hl ≠ 6 then
      .error { code := .wrongLengthForEthernetAddress, info := word32 hl }
    else if pt = ptypeIpv4 ∧ pl ≠ 4 then
      .error { code := .wrongLengthForIpv4Address, info := word32 pl }
    else
      .ok { htype := ht
            ptype := pt
            hlen := hl
            plen := pl
            sha := if ht = htypeEthernet then rd48 w 8 else 0#48
            spa := if pt = ptypeIpv4 then rd32 w (8 + hl) else 0#32
            tha := if ht = htypeEthernet then rd48 w (8 + hl + pl) else 0#48
            tpa := if pt = ptypeIpv4 then rd32 w (8 + 2 * hl + pl) else 0#32 }

/-- RES0..RES7 of ARP_PARSE (R183, 30_encoding.md R94). -/
def arpResults (w : List Byte) (f : ArpInfo) : Results :=
  { r0 := f.ptype ++ f.htype
    r1 := rd16 w 6 ++ BitVec.ofNat 8 f.plen ++ BitVec.ofNat 8 f.hlen
    r2 := f.sha.extractLsb' 16 32
    r3 := (f.sha.extractLsb' 0 16).setWidth 32
    r4 := f.spa
    r5 := f.tha.extractLsb' 16 32
    r6 := (f.tha.extractLsb' 0 16).setWidth 32
    r7 := f.tpa }

/-- The body of ARP_PARSE (R183). -/
def arpParseBody (s : State) (w : List Byte) : Except Err State :=
  match arpAddrs w with
  | .error e => .error e
  | .ok f => .ok { s with res := arpResults w f }

/-- ARP_PARSE (R183). -/
def execArpParse (b : Buf) (s : State) : CmdResult := .next (withWindow b s (arpParseBody s))

/-- Which address pair a set command writes (R184). -/
inductive ArpSide where
  /-- ARP_SET_SRC_MAP. -/
  | src
  /-- ARP_SET_TGT_MAP. -/
  | tgt
deriving DecidableEq, Repr

/-- Offset `ha` of the hardware address, for the lengths after the write (R184). -/
def arpHwOff (side : ArpSide) (hl pl : Nat) : Nat :=
  match side with
  | .src => 8
  | .tgt => 8 + hl + pl

/-- Offset `pa` of the protocol address, for the lengths after the write (R184). -/
def arpPrOff (side : ArpSide) (hl pl : Nat) : Nat :=
  match side with
  | .src => 8 + hl
  | .tgt => 8 + 2 * hl + pl

/-- HLEN after the write: 6 for the Ethernet variant, else the window's own byte 4 (R184). -/
def arpSetHlen (hwk : Bool) (w : List Byte) : Nat := if hwk then (byteAt w 4).toNat else 6

/-- PLEN after the write: 4 for the IPv4 variant, else the window's own byte 5 (R184). -/
def arpSetPlen (prk : Bool) (w : List Byte) : Nat := if prk then (byteAt w 5).toNat else 4

/-- The end offset the writes need (R184). -/
def arpSetEnd (side : ArpSide) (hwk prk : Bool) (hl pl : Nat) : Nat :=
  max (max 8 (if hwk then 0 else arpHwOff side hl pl + 6)) (if prk then 0 else arpPrOff side hl pl + 4)

/-- The writes of `arp_set_map`, in its order, as (window offset, bytes) (R184). -/
def arpSetWrites (side : ArpSide) (s : State) (w : List Byte) : List (Nat × List Byte) :=
  let hl := arpSetHlen (argHwk s) w
  let pl := arpSetPlen (argPrk s) w
  [(0, wr16 (if argHwk s then argRawHtype s else htypeEthernet)),
   (2, wr16 (if argPrk s then argRawPtype s else ptypeIpv4)),
   (4, if argHwk s then [] else [6#8]),
   (5, if argPrk s then [] else [4#8]),
   (arpHwOff side hl pl, if argHwk s then [] else wr48 (argMac s)),
   (arpPrOff side hl pl, if argPrk s then [] else wr32 (argArpIp s))]

/-- Performs a list of window writes, first to last. -/
def State.winWrites (s : State) (b : Buf) : List (Nat × List Byte) → State
  | [] => s
  | (off, bs) :: t => State.winWrites (s.winWrite b off bs) b t

/-- `arp_set_map(which, W)`: all writes are checked before the first one is made (R184). -/
def arpSetMap (side : ArpSide) (b : Buf) (s : State) (w : List Byte) : Except Err State :=
  if w.length < 8 then .error { code := .bounds, info := word32 8 }
  else
    let need := arpSetEnd side (argHwk s) (argPrk s) (arpSetHlen (argHwk s) w) (arpSetPlen (argPrk s) w)
    if w.length < need then .error { code := .bounds, info := word32 need }
    else .ok (s.winWrites b (arpSetWrites side s w))

/-- ARP_SET_SRC_MAP (R185). -/
def execArpSetSrcMap (b : Buf) (s : State) : CmdResult := .next (withWindow b s (arpSetMap .src b s))

/-- ARP_SET_TGT_MAP (R186). -/
def execArpSetTgtMap (b : Buf) (s : State) : CmdResult := .next (withWindow b s (arpSetMap .tgt b s))

/-- ARP_SET_OPER (R187). -/
def execArpSetOper (b : Buf) (s : State) : CmdResult :=
  .next (withWindow b s fun _ => setField b s 8 6 (wr16 (arg2Low s)))

end Sys2Proof.Machine
end

