-- ==== Sys2Proof/Machine/Ipv4.lean ====
section
/-!
DEFINITION. The IPv4 family: header check and decoding, the receive branch, fragment reassembly
(44_ipv4.md R200 to R214).
-/

namespace Sys2Proof.Machine

open Sys2Proof

/-! ### Header check and decoding (R200 to R203) -/

/-- TRUNCATED with the length needed. -/
def truncatedErr (need : Nat) : Err := { code := .truncated, info := word32 need }

/-- `hl = (W[0] & 0x0F) * 4` (R200). -/
def ipv4HdrLen (w : List Byte) : Nat := ((byteAt w 0).extractLsb' 0 4).toNat * 4

/-- `tl = rd16(W, 2)` (R200). -/
def ipv4TotalLen (w : List Byte) : Nat := (rd16 w 2).toNat

/-- `ipv4_check_len(W)` (R201). -/
def ipv4CheckLen (w : List Byte) : Except Err (Nat × Nat) :=
  if w.length < 20 then .error (truncatedErr 20)
  else if w.length < ipv4HdrLen w then .error (truncatedErr (ipv4HdrLen w))
  else if ipv4HdrLen w > ipv4TotalLen w then
    .error { code := .malformed,
             info := BitVec.ofNat 16 (ipv4HdrLen w) ++ BitVec.ofNat 16 (ipv4TotalLen w) }
  else if w.length < ipv4TotalLen w then .error (truncatedErr (ipv4TotalLen w))
  else .ok (ipv4HdrLen w, ipv4TotalLen w)

/-- What `ipv4_decode` returns (R202). -/
structure Ipv4Info where
  verIhl : Byte
  hl : Nat
  tl : Nat
  dscp : BitVec 6
  ecn : BitVec 2
  ident : Half
  df : Bool
  mf : Bool
  off : Nat
  ttl : Byte
  proto : Byte
  ck : Half
  src : IpAddr
  dst : IpAddr
  csumOk : Bool
deriving DecidableEq, Repr

/-- `ipv4_decode(W)` (R202); `bypass` is CTRL.CSUM_BYPASS. -/
def ipv4Decode (bypass : Bool) (w : List Byte) : Except Err Ipv4Info :=
  match ipv4CheckLen w with
  | .error e => .error e
  | .ok (hl, tl) =>
    .ok { verIhl := byteAt w 0
          hl := hl
          tl := tl
          dscp := (byteAt w 1).extractLsb' 2 6
          ecn := (byteAt w 1).extractLsb' 0 2
          ident := rd16 w 4
          df := dfFlag (rd16 w 6)
          mf := mfFlag (rd16 w 6)
          off := fragOff (rd16 w 6)
          ttl := byteAt w 8
          proto := byteAt w 9
          ck := rd16 w 10
          src := rd32 w 12
          dst := rd32 w 16
          csumOk := csumOkFlag bypass (w.take hl) }

/-- RES0..RES7 of IPV4_PARSE for a window at `base` (R203, 30_encoding.md R95). -/
def ipv4Results (base : Nat) (f : Ipv4Info) : Results :=
  { r0 := BitVec.ofNat 16 f.tl ++ BitVec.ofNat 8 f.hl ++ f.verIhl
    r1 := 0#5 ++ bit f.csumOk ++ bit f.mf ++ bit f.df ++ f.proto ++ f.ttl ++ f.ecn ++ f.dscp
    r2 := BitVec.ofNat 16 f.off ++ f.ident
    r3 := f.ck.setWidth 32
    r4 := f.src
    r5 := f.dst
    r6 := word32 (base + f.hl)
    r7 := word32 (f.tl - f.hl) }

/-- The body of IPV4_PARSE (R203). -/
def ipv4ParseBody (s : State) (w : List Byte) : Except Err State :=
  match ipv4Decode s.ctrl.csumBypass w with
  | .error e => .error e
  | .ok f => .ok { s with res := ipv4Results (winBase s) f }

/-- IPV4_PARSE (R203). -/
def execIpv4Parse (b : Buf) (s : State) : CmdResult := .next (withWindow b s (ipv4ParseBody s))

/-! ### Reassembly slots (R208 to R211) -/

/-- The lowest-numbered valid slot of an ident, counting from `k` (R209). -/
def findSlot (id : Half) : Nat → List Slot → Option Nat
  | _, [] => none
  | k, x :: t => if x.valid ∧ x.ident = id then some k else findSlot id (k + 1) t

/-- The lowest-numbered free slot, counting from `k` (R209). -/
def findFree : Nat → List Slot → Option Nat
  | _, [] => none
  | k, x :: t => if x.valid then findFree (k + 1) t else some k

/-- Claims slot `k` for an ident; DATA is not cleared (R209). -/
def claimSlot (k : Nat) (id : Half) (slots : List Slot) : List Slot :=
  slots.modify k fun x => { x with valid := true, ident := id }

/-- Frees slot `k`; IDENT and DATA keep their values (R211, R213). -/
def freeSlot (k : Nat) (slots : List Slot) : List Slot :=
  slots.modify k fun x => { x with valid := false }

/-- `slot_for(id)`: the slot, and the slots after a claim (R209); `none` is NONE. -/
def slotFor (id : Half) (slots : List Slot) : Option (Nat × List Slot) :=
  match findSlot id 0 slots with
  | some k => some (k, slots)
  | none =>
    match findFree 0 slots with
    | some k => some (k, claimSlot k id slots)
    | none => none

/-! ### The receive branch (R205 to R211) -/

/-- `out(o, r, s, n)`: an outcome with the header's PROTO and IDENT (R205). -/
def ipv4Out (f : Ipv4Info) (o : OutcomeCode) (r : Option DropReason) (slot : Option Nat) (n : Nat) : RxOutcome :=
  { outcome := o, reason := r, proto := f.proto, slot := slot, len := n, ident := f.ident }

/-- The protocols the block delivers: ICMP = 1 and UDP = 17 (30_encoding.md R108). -/
def deliverable (proto : Byte) : Bool := proto == 1#8 || proto == 17#8

/-- `dispatch(f, bytes, s)` (R207). -/
def dispatchL4 (f : Ipv4Info) (bytes : List Byte) (slot : Option Nat) (s : State) : State × RxOutcome :=
  if deliverable f.proto then
    (emitDeliver f.proto bytes s, ipv4Out f .delivered none slot bytes.length)
  else
    match slot with
    | none => (s, ipv4Out f .dropped (some .l4Ignored) none 0)
    | some k => (s, ipv4Out f .dropped (some .l4Ignored) (some k) bytes.length)

/-- `finish(f, s, L)`: dispatches the first `len` bytes of slot `k` and frees it (R211). -/
def finishFrag (f : Ipv4Info) (k len : Nat) (s : State) : State × RxOutcome :=
  dispatchL4 f (s.readBytes (.slot k) 0 len) (some k) { s with slots := freeSlot k s.slots }

/-- `reassemble(f, P)` (R208). -/
def reassemble (f : Ipv4Info) (p : List Byte) (s : State) : State × RxOutcome :=
  if f.off + p.length > s.params.fragBufSize.toNat then
    (s, ipv4Out f .dropped (some .fragOverflow) none 0)
  else
    match slotFor f.ident s.slots with
    | none => (s, ipv4Out f .dropped (some .fragNoSlot) none 0)
    | some (k, slots) =>
      let t := State.writeBytes { s with slots := slots } (.slot k) f.off p
      if f.mf then (t, ipv4Out f .held none (some k) p.length)
      else finishFrag f k (f.off + p.length) t

/-- The payload `W[hl .. tl]` (R200). -/
def ipv4Payload (f : Ipv4Info) (w : List Byte) : List Byte := (w.drop f.hl).take (f.tl - f.hl)

/-- The receive branch after the header decoded (R205, R206). -/
def ipv4Receive (f : Ipv4Info) (w : List Byte) (s : State) : State × RxOutcome :=
  if s.ctrl.ipCsumEn && !f.csumOk then (s, ipv4Out f .dropped (some .badCsum) none 0)
  else if f.ttl = 0#8 then (s, ipv4Out f .dropped (some .ttlZero) none 0)
  else if f.df then dispatchL4 f (ipv4Payload f w) none s
  else reassemble f (ipv4Payload f w) s

/-- `ipv4_input(W)` (R205). It raises only from the decoding, before any state is touched (R247). -/
def ipv4InputOn (s : State) (w : List Byte) : Except Err (State × RxOutcome) :=
  match ipv4Decode s.ctrl.csumBypass w with
  | .error e => .error e
  | .ok f => .ok (ipv4Receive f w s)

/-- The body of IPV4_INPUT (R204). -/
def ipv4InputBody (s : State) (w : List Byte) : Except Err State :=
  match ipv4InputOn s w with
  | .error e => .error e
  | .ok (t, o) => .ok (t.putOutcome o)

/-- IPV4_INPUT (R204). -/
def execIpv4Input (b : Buf) (s : State) : CmdResult := .next (withWindow b s (ipv4InputBody s))

/-! ### FRAG_FLUSH (R213) -/

/-- Slot `k` is named by the slot operand `t`. -/
def flushes (t : Byte) (k : Nat) : Bool := t == 0xFF#8 || t.toNat == k

/-- The slots after a flush, counting from `k`. -/
def flushSlots (t : Byte) : Nat → List Slot → List Slot
  | _, [] => []
  | k, x :: rest => { x with valid := x.valid && !flushes t k } :: flushSlots t (k + 1) rest

/-- How many slots a flush frees, counting from `k`: VALID goes from 1 to 0. -/
def flushCount (t : Byte) : Nat → List Slot → Nat
  | _, [] => 0
  | k, x :: rest => (if x.valid && flushes t k then 1 else 0) + flushCount t (k + 1) rest

/-- The body of FRAG_FLUSH (R213). -/
def fragFlushBody (s : State) : Except Err State :=
  if argSlot s ≠ 0xFF#8 ∧ s.params.nFragSlots.toNat ≤ (argSlot s).toNat then
    .error { code := .illegal, info := s.args.a2 }
  else
    .ok { s with slots := flushSlots (argSlot s) 0 s.slots
                 res := { s.res with r0 := word32 (flushCount (argSlot s) 0 s.slots) } }

/-- FRAG_FLUSH (R213). -/
def execFragFlush (s : State) : CmdResult := .next (finish s (fragFlushBody s))

end Sys2Proof.Machine
end

