-- ==== Sys2Proof/Machine/Vlan.lean ====
section
/-!
DEFINITION. The VLAN family: tag matching, stripping and emission (42_vlan.md R170 to R173).
-/

namespace Sys2Proof.Machine

open Sys2Proof

/-- The outer tag matches level 0 (R170, R171). -/
def matchLevel0 (c : VlanCfg) (vid0 : Vid) : Bool := c.vid0En && vid0 == c.vid0

/-- The inner tag matches level 1 (R170, R171). -/
def matchLevel1 (c : VlanCfg) (vid1 : Vid) : Bool := c.vid1En && vid1 == c.vid1

/-- `vlan_check(pkind, vid0, vid1)`: `none` passes (PASS = 1, REASON = 0x00), `some r` fails with the drop
reason (R171). -/
def vlanCheck (c : VlanCfg) (k : PKind) (vid0 vid1 : Vid) : Option DropReason :=
  match k with
  | .l3 => none
  | .q => if matchLevel0 c vid0 then none else some .vlanMismatch
  | .qinq => if matchLevel0 c vid0 && matchLevel1 c vid1 then none else some .vlanMismatch
  | .length => some .unsupportedEthertype
  | .unknown => some .unsupportedEthertype

/-- RES6 of VLAN_STRIP: `{PAYLOAD_LEN, REASON, 7'b0, PASS}` (R172, 30_encoding.md R93). -/
def vlanRes6 (payloadLen : Nat) (reason : Option DropReason) : Word :=
  BitVec.ofNat 16 payloadLen ++ reasonByte reason ++ 0#7 ++ bit reason.isNone

/-- The body of VLAN_STRIP (R172). -/
def vlanStripBody (s : State) (w : List Byte) : Except Err State :=
  match ethClassify w with
  | .error e => .error e
  | .ok f =>
    .ok { s with
          res := { ethResults w f s.res with
                   r6 := vlanRes6 (winLen s - f.hdr) (vlanCheck s.vlanCfg f.pkind f.vid0 f.vid1)
                   r7 := word32 (winBase s + f.hdr) } }

/-- VLAN_STRIP (R172). -/
def execVlanStrip (b : Buf) (s : State) : CmdResult := .next (withWindow b s (vlanStripBody s))

/-- One emitted tag: the TPID and a TCI with priority/CFI 0 (R173). -/
def tagBytes (vid : Vid) : List Byte := wr16 tpid ++ wr16 (tciOf vid)

/-- `tx_tags()` (R173). -/
def txTags (c : VlanCfg) : List Byte :=
  if c.txTag0 then
    if c.txTag1 then tagBytes c.vid0 ++ tagBytes c.vid1 else tagBytes c.vid0
  else []

end Sys2Proof.Machine
end

