-- ==== Sys2Proof/Machine/Interface.lean ====
section
/-!
DEFINITION. The interface family: the own-address table and the receive poll (45_interface.md R230 to R247).
-/

namespace Sys2Proof.Machine

open Sys2Proof

/-! ### The own-address table (R230, R231) -/

/-- The 38-bit sort key `{IP_ADDR[i], IP_PREFIX[i][5:0]}` (10_state.md R38). -/
def AddrEntry.key (e : AddrEntry) : BitVec 38 := e.addr ++ e.plen

/-- Inserts a new entry before the first entry with a greater key (R230). -/
def insertAddr (e : AddrEntry) : List AddrEntry → List AddrEntry
  | [] => [e]
  | x :: t => if x.key.toNat > e.key.toNat then e :: x :: t else x :: insertAddr e t

/-- Entry `i` equals the pair of the operands `(a, p)`, the prefix compared on all its 8 bits (R230, R231). -/
def entryIs (a : IpAddr) (p : Byte) (e : AddrEntry) : Bool := e.addr == a && e.plen.setWidth 8 == p

/-- Removes the first entry equal to `(a, p)` (R231). -/
def removeAddr (a : IpAddr) (p : Byte) : List AddrEntry → List AddrEntry
  | [] => []
  | x :: t => if entryIs a p x then t else x :: removeAddr a p t

/-- Writes RES0 = zext_32(IP_COUNT) (30_encoding.md R97). -/
def putCount (s : State) : State := { s with res := { s.res with r0 := word32 s.addrs.length } }

/-- The body of ADDR_ADD (R230). -/
def addrAddBody (s : State) : Except Err State :=
  if (argPrefixLen s).toNat > 32 then
    .error { code := .badPrefix, info := (argPrefixLen s).setWidth 32 }
  else if s.addrs.any (entryIs (argIp s) (argPrefixLen s)) then .ok (putCount s)
  else if s.params.nIpAddrs.toNat ≤ s.addrs.length then
    .error { code := .noSpaceAddrs, info := s.params.nIpAddrs.setWidth 32 }
  else
    .ok (putCount { s with addrs := insertAddr { addr := argIp s, plen := (argPrefixLen s).setWidth 6 } s.addrs })

/-- ADDR_ADD (R230). -/
def execAddrAdd (s : State) : CmdResult := .next (finish s (addrAddBody s))

/-- The body of ADDR_DEL (R231). -/
def addrDelBody (s : State) : Except Err State :=
  if s.addrs.any (entryIs (argIp s) (argPrefixLen s)) then
    .ok (putCount { s with addrs := removeAddr (argIp s) (argPrefixLen s) s.addrs })
  else .error { code := .ipAddrNotFound, info := argIp s }

/-- ADDR_DEL (R231). -/
def execAddrDel (s : State) : CmdResult := .next (finish s (addrDelBody s))

/-! ### The receive poll (R233 to R247) -/

/-- A raise inside RX_POLL with the state that survives it (R247). -/
structure PollError where
  err : Err
  survive : State
deriving DecidableEq, Repr

/-- A poll step: an error with its survivors, or the state and the outcome tuple. -/
abbrev PollResult := Except PollError (State × RxOutcome)

/-- A drop before any IPv4 header was parsed: PROTO = 0, SLOT = 0xFF, LEN = 0, IDENT = 0 (R235). -/
def pollDrop (r : DropReason) : RxOutcome :=
  { outcome := .dropped, reason := some r, proto := 0#8, slot := none, len := 0, ident := 0#16 }

/-- The outcome of a poll with no frame pending (R233). -/
def pollNoFrame : RxOutcome :=
  { outcome := .noFrame, reason := none, proto := 0#8, slot := none, len := 0, ident := 0#16 }

/-- The outcome of a sent ARP reply (R241). -/
def pollArpReply (txLen : Nat) : RxOutcome :=
  { outcome := .arpReply, reason := none, proto := 0#8, slot := none, len := txLen, ident := 0#16 }

/-- The broadcast MAC (30_encoding.md R104). -/
def broadcastMac : Mac := 0xFFFFFFFFFFFF#48

/-- The ARP addresses a reply needs (R238): SHA, SPA and TPA. -/
structure ArpRequest where
  sha : Mac
  spa : IpAddr
  tpa : IpAddr
deriving DecidableEq, Repr

/-- UNEXPECTED_TYPE: the type in bits 15:0, bit 16 set for the protocol type (R238). -/
def unexpectedType (protocol : Bool) (ty : Half) : Err :=
  { code := .unexpectedType, info := 0#15 ++ bit protocol ++ ty }

/-- The ARP checks of the poll (R238): check_len, HTYPE, HLEN, PTYPE, PLEN in this order. -/
def pollArpCheck (p : List Byte) : Except Err ArpRequest :=
  match arpCheckLen p with
  | .error e => .error e
  | .ok (hl, pl) =>
    if rd16 p 0 ≠ htypeEthernet then .error (unexpectedType false (rd16 p 0))
    else if hl ≠ 6 then .error { code := .wrongLengthForEthernetAddress, info := word32 hl }
    else if rd16 p 2 ≠ ptypeIpv4 then .error (unexpectedType true (rd16 p 2))
    else if pl ≠ 4 then .error { code := .wrongLengthForIpv4Address, info := word32 pl }
    else .ok { sha := rd48 p 8, spa := rd32 p 14, tpa := rd32 p 24 }

/-- The reply frame (R240). -/
def arpReplyFrame (own : Mac) (tags : List Byte) (q : ArpRequest) : List Byte :=
  wr48 q.sha ++ wr48 own ++ tags ++ [0x08#8, 0x06#8]
    ++ [0x00#8, 0x01#8, 0x08#8, 0x00#8, 0x06#8, 0x04#8, 0x00#8, 0x02#8]
    ++ wr48 own ++ wr32 q.tpa ++ wr48 q.sha ++ wr32 q.spa

/-- The frame written to TX_BUF from byte 0 and its length to TX_LEN (R240). -/
def putReply (frame : List Byte) (s : State) : State :=
  { s.writeBytes .tx 0 frame with txLen := BitVec.ofNat 16 frame.length }

/-- Builds and sends the reply (R240, R241, R244); `snd` is the answer of the Send port. -/
def pollArpReplyStep (snd : SendAnswer) (q : ArpRequest) (s : State) : PollResult :=
  let frame := arpReplyFrame (ownMac s) (txTags s.vlanCfg) q
  let t := emitSend frame snd (putReply frame s)
  match snd with
  | .ok => .ok (t, pollArpReply frame.length)
  | .fail => .error { err := { code := .deviceSend, info := 0#32 }, survive := t }

/-- Learns, filters on the target, replies (R239); `arp` and `snd` are the ports' answers. -/
def pollArpAct (arp : ArpAnswer) (snd : SendAnswer) (q : ArpRequest) (s : State) : PollResult :=
  let t := emitArpLearn q.spa q.sha arp s
  match arp with
  | .noSpace => .ok (t, pollDrop .arpNoSpace)
  | .ok => if owned t q.tpa then pollArpReplyStep snd q t else .ok (t, pollDrop .arpNotForUs)

/-- `poll_arp(P)` (R238 to R241). -/
def pollArp (arp : ArpAnswer) (snd : SendAnswer) (p : List Byte) (s : State) : PollResult :=
  match pollArpCheck p with
  | .error e => .error { err := e, survive := s }
  | .ok q => pollArpAct arp snd q s

/-- The IPv4 branch inside the poll: an error leaves every slot unchanged (R247). -/
def pollIpv4 (p : List Byte) (s : State) : PollResult :=
  match ipv4InputOn s p with
  | .error e => .error { err := e, survive := s }
  | .ok r => .ok r

/-- `dispatch_l3(W, l3, hdr)` (R237); `p` is the payload window. -/
def pollL3 (arp : ArpAnswer) (snd : SendAnswer) (l3 : L3Class) (p : List Byte) (s : State) : PollResult :=
  match l3 with
  | .arp => pollArp arp snd p s
  | .ipv4 => pollIpv4 p s
  | .ipv6 => .ok (s, pollDrop .l3Ignored)
  | .other => .ok (s, pollDrop .l3Ignored)

/-- The destination filter: own address or broadcast (R235). -/
def dstAccepted (s : State) (dst : Mac) : Bool := dst == ownMac s || dst == broadcastMac

/-- `poll_ethernet(W)` (R235). -/
def pollEthernet (arp : ArpAnswer) (snd : SendAnswer) (w : List Byte) (s : State) : PollResult :=
  match ethClassify w with
  | .error e => .error { err := e, survive := s }
  | .ok f =>
    if dstAccepted s (rd48 w 0) then
      match vlanCheck s.vlanCfg f.pkind f.vid0 f.vid1 with
      | some r => .ok (s, pollDrop r)
      | none => pollL3 arp snd f.l3 (w.drop f.hdr) s
    else .ok (s, pollDrop .dstMac)

/-- The version nibble of an IP packet: bits 7:4 of byte 0 (R236). -/
def ipVersion (w : List Byte) : BitVec 4 := (byteAt w 0).extractLsb' 4 4

/-- `poll_ip(W)` (R236). -/
def pollIp (w : List Byte) (s : State) : PollResult :=
  if w.length < 1 then .error { err := truncatedErr 1, survive := s }
  else if ipVersion w ≠ 4#4 then
    .error { err := { code := .unknownIpVersion, info := (ipVersion w).setWidth 32 }, survive := s }
  else pollIpv4 w s

/-- The received frame: RX_BUF[0 .. RX_LEN) (R233). -/
def rxFrame (s : State) : List Byte := s.readBytes .rx 0 s.rxLen.toNat

/-- The cycle on a consumed frame, by medium (R233). -/
def pollFrame (arp : ArpAnswer) (snd : SendAnswer) (s : State) : PollResult :=
  if s.rxLen.toNat > s.params.rxBufSize.toNat then
    .error { err := { code := .bounds, info := s.rxLen.setWidth 32 }, survive := s }
  else if s.ctrl.medium then pollIp (rxFrame s) s
  else pollEthernet arp snd (rxFrame s) s

/-- The end of a poll: an error keeps its survivors, an outcome goes to RES0 and RES1 (R233, R247). -/
def finishPoll : PollResult → State
  | .error e => raiseErr e.err e.survive
  | .ok (t, o) => complete (t.putOutcome o)

/-- RX_POLL with the answers its ports would draw (R233). -/
def rxPollWith (arp : ArpAnswer) (snd : SendAnswer) (s : State) : State :=
  if s.rxPending then finishPoll (pollFrame arp snd { s with rxPending := false })
  else complete (s.putOutcome pollNoFrame)

/-- RX_POLL (R233). ArpLearn is the first answered request of the command and Send the second (R242), so
their answers are the draws number `s.draws` and `s.draws + 1`. -/
def execRxPoll (s : State) : CmdResult :=
  .next (rxPollWith (Config.arpLearnAnswer s.draws) (Config.sendAnswer (s.draws + 1)) s)

end Sys2Proof.Machine
end

