-- ==== Sys2Proof/Machine/Dispatch.lean ====
section
/-!
DEFINITION. One arm per command of 30_encoding.md R83, each a direct call of its meaning.
-/

namespace Sys2Proof.Machine

def exec (i : Instr) (s : State) : Host.Outcome State Fault Refusal :=
  match i with
  | .csumClear => Sys2Proof.Machine.execCsumClear s
  | .csumBytes b => Sys2Proof.Machine.execCsumBytes b s
  | .csumWord => Sys2Proof.Machine.execCsumWord s
  | .csumPseudo => Sys2Proof.Machine.execCsumPseudo s
  | .csumVerify => Sys2Proof.Machine.execCsumVerify s
  | .ethParse b => Sys2Proof.Machine.execEthParse b s
  | .ethSetDst b => Sys2Proof.Machine.execEthSetDst b s
  | .ethSetSrc b => Sys2Proof.Machine.execEthSetSrc b s
  | .ethSetProto b => Sys2Proof.Machine.execEthSetProto b s
  | .vlanStrip b => Sys2Proof.Machine.execVlanStrip b s
  | .arpParse b => Sys2Proof.Machine.execArpParse b s
  | .arpSetSrcMap b => Sys2Proof.Machine.execArpSetSrcMap b s
  | .arpSetTgtMap b => Sys2Proof.Machine.execArpSetTgtMap b s
  | .arpSetOper b => Sys2Proof.Machine.execArpSetOper b s
  | .ipv4Parse b => Sys2Proof.Machine.execIpv4Parse b s
  | .ipv4Input b => Sys2Proof.Machine.execIpv4Input b s
  | .fragFlush => Sys2Proof.Machine.execFragFlush s
  | .addrAdd => Sys2Proof.Machine.execAddrAdd s
  | .addrDel => Sys2Proof.Machine.execAddrDel s
  | .rxPoll => Sys2Proof.Machine.execRxPoll s

end Sys2Proof.Machine
end

