-- ==== Sys2Proof/Machine/Command.lean ====
section
/-!
DEFINITION. What one host operation does: a CMD write performs a command (10_state.md R22, 30_encoding.md R81),
other accesses read or write (20_memory.md R65), and the platform reset (70_reset_and_hazards.md R280).
-/

namespace Sys2Proof.Machine

open Sys2Proof

/-- A command word written to CMD: a legal word runs its command; an illegal word ends at once with ILLEGAL
and the word as ERR_INFO, and changes no other state (R81). -/
def runCommandWord (c : Word) (s : State) : Host.Outcome State Fault Refusal :=
  match decode c with
  | .ok i => exec i s
  | .error _ => .next (raiseErr { code := .illegal, info := c } s)

/-- A host write (R65). -/
def hostStore (w : Width) (addr v : Word) (s : State) : Host.Outcome State Fault Refusal :=
  match accessTarget s.params w addr with
  | .error e => .fault e
  | .ok (.reg .cmd) => runCommandWord v s
  | .ok (.reg r) => .next (writeReg s r v)
  | .ok (.byteIn sp i) => .next (hostWrite s sp i [v.extractLsb' 0 8])
  | .ok (.wordIn sp i) => .next (hostWrite s sp i (wr32 v))

/-- The platform reset (R280): every register at its reset value, the tables empty, the history empty, the
bytes of every space drawn anew (log 8). -/
def platformReset (s : State) : State :=
  State.afterReset s.params (s.epoch + 1) s.draws s.inbox

/-- One host operation. -/
def perform (op : HostOp) (s : State) : Host.Outcome State Fault Refusal :=
  match op with
  | .read w addr => hostRead w addr s
  | .write w addr v => hostStore w addr v s
  | .reset => .next (platformReset s)

/-- One step: the oldest waiting host operation is performed; with none waiting the block is idle and keeps
all its state (60_exceptions.md R277; log 2). -/
def stepInbox (s : State) : Host.Outcome State Fault Refusal :=
  match s.inbox with
  | [] => .next s
  | op :: rest => perform op { s with inbox := rest }

/-- The address of CMD: offset 0 (R21, R69). -/
def cmdAddress (p : Params) : Word := p.base

/-- The host's write of a command word to CMD. -/
def cmdWrite (p : Params) (c : Word) : HostOp := .write .word (cmdAddress p) c

end Sys2Proof.Machine
end

