-- ==== Sys2Proof/Machine/Step.lean ====
section
/-!
DEFINITION. The step function, and how the host's pipeline makes a command the next one to run.
-/

namespace Sys2Proof.Machine

open Sys2Proof

/-- One step of the machine (00_scope.md R12, 20_memory.md R71). -/
def step (s : State) : Host.Outcome State Fault Refusal := stepInbox s

/-- `s` with the command word `w` waiting as the oldest host operation: a write of it to CMD (log 2). -/
def State.withFetchWord (s : State) (nbits w : Nat) : State :=
  { s with inbox := cmdWrite s.params (BitVec.ofNat 32 (w % 2 ^ nbits)) :: s.inbox }

end Sys2Proof.Machine
end

