-- ==== Sys2Proof/Machine/Asm.lean ====
section
/-!
DEFINITION. The assembler forms of 30_encoding.md R88 and the pseudo-instructions of R89, as the host
operations each stands for. "A pseudo-instruction is purely textual. It adds no command and no state": the
machine never reads these definitions.
-/

namespace Sys2Proof.Machine

open Sys2Proof

/-- One line of a program (R88, R89). -/
inductive AsmLine where
  /-- `wr REG, v`: REG by its offset. -/
  | wr (off : Word) (v : Word)
  /-- `rd REG`. -/
  | rd (off : Word)
  /-- `wrb SPACE[a], b0 b1 ...`, SPACE a buffer. -/
  | wrb (b : Buf) (a : Word) (bytes : List Byte)
  /-- `cmd MNEMONIC[.rx/.tx]`. -/
  | cmd (i : Instr)
  /-- `MNEMONIC[.rx/.tx] ARGk=v, ...`. -/
  | cmdArgs (i : Instr) (settings : List (Fin 6 × Word))
  /-- `csum.check[.rx/.tx] base, len`. -/
  | csumCheck (b : Buf) (base len : Word)
  /-- `rx.frame b0 b1 ... bn-1`. -/
  | rxFrame (bytes : List Byte)
  /-- `mac.set m0:m1:m2:m3:m4:m5`. -/
  | macSet (mac : Mac)
  /-- `ip.add a.b.c.d/p`. -/
  | ipAdd (ip : IpAddr) (plen : Word)
deriving DecidableEq, Repr

/-- A 32-bit write of a register at an offset. -/
def wrOp (p : Params) (off v : Word) : HostOp := .write .word (p.base + off) v

/-- A 32-bit read of a register at an offset. -/
def rdOp (p : Params) (off : Word) : HostOp := .read .word (p.base + off)

/-- The offset of ARGk: 0x010 + 4k (10_state.md R21). -/
def argOffset (k : Fin 6) : Word := 0x010#32 + 4#32 * BitVec.ofNat 32 k.val

/-- The offset of byte 0 of a buffer (20_memory.md R60). -/
def bufOffset : Buf → Word
  | .rx => 0x00010000#32
  | .tx => 0x00020000#32

/-- 8-bit writes of consecutive bytes from an offset on. -/
def byteWrites (p : Params) (off : Word) : List Byte → List HostOp
  | [] => []
  | b :: bs => .write .byte (p.base + off) (b.setWidth 32) :: byteWrites p (off + 1#32) bs

/-- A command with its operand writes (R89). -/
def withArgs (p : Params) (i : Instr) (settings : List (Fin 6 × Word)) : List HostOp :=
  settings.map (fun x => wrOp p (argOffset x.1) x.2) ++ [cmdWrite p (encode i)]

/-- The host operations a line stands for, in order (R88, R89). -/
def assembleLine (p : Params) : AsmLine → List HostOp
  | .wr off v => [wrOp p off v]
  | .rd off => [rdOp p off]
  | .wrb b a bytes => byteWrites p (bufOffset b + a) bytes
  | .cmd i => [cmdWrite p (encode i)]
  | .cmdArgs i settings => withArgs p i settings
  | .csumCheck b base len =>
    withArgs p .csumClear [] ++ withArgs p (.csumBytes b) [(0, base), (1, len)] ++ withArgs p .csumVerify []
  | .rxFrame bytes =>
    byteWrites p (bufOffset .rx) bytes ++ [wrOp p 0x074#32 (word32 bytes.length), wrOp p 0x070#32 1#32]
  | .macSet mac => [wrOp p 0x064#32 (mac.extractLsb' 16 32), wrOp p 0x068#32 ((mac.extractLsb' 0 16).setWidth 32)]
  | .ipAdd ip plen => withArgs p .addrAdd [(2, ip), (3, plen)]

/-- The host operations of a program. -/
def assemble (p : Params) (prog : List AsmLine) : List HostOp := prog.flatMap (assembleLine p)

end Sys2Proof.Machine
end

