-- ==== Sys2Proof/Safety.lean ====
section
/-!
DEFINITION. What counts as a sound state and as a safe step, in the terms the statements use: the
invariants the spec states (10_state.md R38, R41; 60_exceptions.md R262) and the canonical form of memory.
-/

namespace Sys2Proof

open Sys2Proof.Machine

/-- A memory is in canonical form and lists no index at or above the size of its space (R61, R62). -/
def memSound (m : Memory) (size : Nat) : Prop := m.wf = true ∧ ∀ c ∈ m, c.1 < size

/-- Entries sorted in strictly ascending order of the key, prefixes at most 32, at most N_IP_ADDRS of them
(10_state.md R38, 00_scope.md R7). -/
def tableSound (capacity : Nat) (t : List AddrEntry) : Prop :=
  t.Pairwise (fun x y => x.key.toNat < y.key.toNat) ∧ (∀ e ∈ t, e.plen.toNat ≤ 32) ∧ t.length ≤ capacity

/-- "at most one slot s has VALID[s] = 1 and IDENT[s] = x, for every x" (10_state.md R41). -/
def slotsDistinct (slots : List Slot) : Prop :=
  slots.Pairwise fun x y => x.valid = true → y.valid = true → x.ident ≠ y.ident

/-- N_FRAG_SLOTS slots, distinct idents, each slot's bytes inside FRAG_BUF_SIZE (10_state.md R40, R41). -/
def slotsSound (p : Params) (slots : List Slot) : Prop :=
  slots.length = p.nFragSlots.toNat ∧ slotsDistinct slots
    ∧ ∀ x ∈ slots, memSound x.data p.fragBufSize.toNat

/-- STATUS and ERR_INFO as some completion, or reset, leaves them: BUSY is 0; without ERR the code and the
detail are 0; with ERR the code is one of 0x01..0x0F (R23, R24, R260 to R262, R288). -/
def statusSound (t : Status) (info : Word) : Prop :=
  t.busy = false
    ∧ (t.err = false → t.errCode = 0#8 ∧ info = 0#32)
    ∧ (t.err = true → 1 ≤ t.errCode.toNat ∧ t.errCode.toNat ≤ 15)

/-- A sound state. Every state a run from reset reaches is one; nothing is said of the free values. -/
structure SoundState (s : State) : Prop where
  params : s.params.wf = true
  status : statusSound s.status s.errInfo
  table : tableSound s.params.nIpAddrs.toNat s.addrs
  slots : slotsSound s.params s.slots
  rx : memSound s.rxBuf s.params.rxBufSize.toNat
  tx : memSound s.txBuf s.params.txBufSize.toNat
  reply : s.txLen.toNat ≤ 50

/-- A step is safe: it answers a next state, so no bus error and no refusal. -/
def SafeStep (s : State) : Prop := ∃ t, step s = .next t

/-! ### The terms of the statements: encodings, completions, reports, headers, stores

Each is written from the tables of the spec, field by field, and not from the meanings. -/

/-- Where each space starts, relative to APF_BASE (20_memory.md R60). -/
def spaceStart : Space → Nat
  | .rx => 0x00010000
  | .tx => 0x00020000
  | .slot k => 0x00100000 + 0x10000 * k

/-- How many bytes each space has (20_memory.md R60, R61). -/
def spaceBytes (p : Params) : Space → Nat
  | .rx => p.rxBufSize.toNat
  | .tx => p.txBufSize.toNat
  | .slot k => if k < p.nFragSlots.toNat then p.fragBufSize.toNat else 0

/-- The window of buffer `b` lies inside its space (20_memory.md R66). -/
def WindowFits (b : Buf) (s : State) : Prop := winBase s + winLen s ≤ spaceBytes s.params (spaceOf b)

/-- `s` with the STATUS and ERR_INFO of a successful completion (60_exceptions.md R260). -/
def succeeded (s : State) : State :=
  { s with status := { busy := false, err := false, errCode := 0x00#8 }, errInfo := 0#32 }

/-- `s` with the STATUS and ERR_INFO of an error completion; `code` is the number of 60_exceptions.md R262
(R261). -/
def errored (code : Byte) (info : Word) (s : State) : State :=
  { s with status := { busy := false, err := true, errCode := code }, errInfo := info }

/-- `w` is the one word of a command without a window (30_encoding.md R83). -/
def PlainEncoding (i : Instr) (w : Word) : Prop := ∀ c : Word, decode c = .ok i ↔ c = w

/-- `rx` and `tx` are the two words of a window command (30_encoding.md R83). -/
def WindowEncoding (mk : Buf → Instr) (rx tx : Word) : Prop :=
  ∀ c : Word, (decode c = .ok (mk .rx) ↔ c = rx) ∧ (decode c = .ok (mk .tx) ↔ c = tx)

/-- The command ends with the error of this number, and the state is otherwise the one before it
(60_exceptions.md R261, R262). -/
def EndsWith (i : Instr) (s : State) (code : Byte) (info : Word) : Prop :=
  exec i s = .next (errored code info s)

/-- A window command whose window lies outside its space ends with BOUNDS (30_encoding.md R82). -/
def BoundsChecked (mk : Buf → Instr) : Prop :=
  ∀ (b : Buf) (s : State), ¬ WindowFits b s →
    EndsWith (mk b) s 0x02#8 (word32 (min (winBase s + winLen s) 0xFFFFFFFF))

/-- The command completes, writing result registers only; `p` says what they hold (60_exceptions.md R260). -/
def Reports (i : Instr) (s : State) (p : Results → Prop) : Prop :=
  ∃ r : Results, exec i s = .next (succeeded { s with res := r }) ∧ p r

/-- From `s` to `t` the space `sp` holds the bytes `bs` from index `i` on; every other byte of every space
reads as before, and `t` differs from `s` in the bytes of `sp` and the completion only. -/
def Stores (s t : State) (sp : Space) (i : Nat) (bs : List Byte) : Prop :=
  t = succeeded (s.setMem sp (t.memOf sp))
    ∧ (∀ j, t.readByte sp j = if i ≤ j ∧ j < i + bs.length then bs.getD (j - i) 0#8 else s.readByte sp j)
    ∧ ∀ sp' j, sp' ≠ sp → t.readByte sp' j = s.readByte sp' j

/-- The L3 class code of an EtherType (30_encoding.md R92, R103). -/
def l3Code (e : Half) : BitVec 2 :=
  if e = 0x0800#16 then 0#2 else if e = 0x0806#16 then 1#2 else if e = 0x86DD#16 then 2#2 else 3#2

/-- The header shape of a window that is long enough for it: PKIND, L3 class, HDR_LEN, ETYPE, VID0, VID1
(41_ethernet.md R151, 30_encoding.md R92, R101, R102). -/
def EthShape (w : List Byte) (k : BitVec 3) (l3 : BitVec 2) (hdr : Nat) (e : Half) (v0 v1 : Vid) : Prop :=
  if rd16 w 12 = 0x8100#16 then
    v0 = (rd16 w 14).extractLsb' 0 12 ∧
    if rd16 w 16 = 0x8100#16 then
      22 ≤ w.length ∧ k = 2#3 ∧ hdr = 22 ∧ e = rd16 w 20 ∧ v1 = (rd16 w 18).extractLsb' 0 12 ∧ l3 = l3Code e
    else
      18 ≤ w.length ∧ k = 1#3 ∧ hdr = 18 ∧ e = rd16 w 16 ∧ v1 = 0#12 ∧ l3 = l3Code e
  else
    14 ≤ w.length ∧ hdr = 14 ∧ e = rd16 w 12 ∧ v0 = 0#12 ∧ v1 = 0#12 ∧
    if e.toNat < 0x05DC then k = 3#3 ∧ l3 = 3#2
    else if l3Code e = 3#2 then k = 4#3 ∧ l3 = 3#2
    else k = 0#3 ∧ l3 = l3Code e

/-- A window too short for its Ethernet header, and the length needed (41_ethernet.md R151). -/
def EthTooShort (w : List Byte) (need : Nat) : Prop :=
  (w.length < 14 ∧ need = 14)
    ∨ (14 ≤ w.length ∧ w.length < 18 ∧ rd16 w 12 = 0x8100#16 ∧ need = 18)
    ∨ (18 ≤ w.length ∧ w.length < 22 ∧ rd16 w 12 = 0x8100#16 ∧ rd16 w 16 = 0x8100#16 ∧ need = 22)

/-- RES0..RES5 as 30_encoding.md R91 lays them out. -/
def EthReport (w : List Byte) (k : BitVec 3) (l3 : BitVec 2) (hdr : Nat) (e : Half) (v0 v1 : Vid)
    (r : Results) : Prop :=
  (r.r0.extractLsb' 0 3 = k ∧ r.r0.extractLsb' 3 1 = 0#1 ∧ r.r0.extractLsb' 4 2 = l3 ∧ r.r0.extractLsb' 6 2 = 0#2
      ∧ (r.r0.extractLsb' 8 8).toNat = hdr ∧ r.r0.extractLsb' 16 16 = e)
    ∧ (r.r1.extractLsb' 0 12 = v0 ∧ r.r1.extractLsb' 12 4 = 0#4 ∧ r.r1.extractLsb' 16 12 = v1
      ∧ r.r1.extractLsb' 28 4 = 0#4)
    ∧ r.r2 = byteAt w 0 ++ byteAt w 1 ++ byteAt w 2 ++ byteAt w 3
    ∧ (r.r3.extractLsb' 0 16 = byteAt w 4 ++ byteAt w 5 ∧ r.r3.extractLsb' 16 16 = 0#16)
    ∧ r.r4 = byteAt w 6 ++ byteAt w 7 ++ byteAt w 8 ++ byteAt w 9
    ∧ (r.r5.extractLsb' 0 16 = byteAt w 10 ++ byteAt w 11 ∧ r.r5.extractLsb' 16 16 = 0#16)

/-- The REASON of the VLAN check, 0x00 where it passes (42_vlan.md R171, 60_exceptions.md R266). -/
def vlanReason (c : VlanCfg) (k : BitVec 3) (v0 v1 : Vid) : Byte :=
  if k = 0#3 then 0x00#8
  else if k = 1#3 then (if c.vid0En = true ∧ v0 = c.vid0 then 0x00#8 else 0x02#8)
  else if k = 2#3 then
    (if c.vid0En = true ∧ v0 = c.vid0 ∧ c.vid1En = true ∧ v1 = c.vid1 then 0x00#8 else 0x02#8)
  else 0x03#8

/-- RES0 and RES1 as 30_encoding.md R96 lays them out; the other result registers as in `old`. -/
def OutcomeReport (outcome : BitVec 4) (reason proto slot : Byte) (len : Nat) (ident : Half) (old r : Results) : Prop :=
  (r.r0.extractLsb' 0 4 = outcome ∧ r.r0.extractLsb' 4 4 = 0#4 ∧ r.r0.extractLsb' 8 8 = reason
      ∧ r.r0.extractLsb' 16 8 = proto ∧ r.r0.extractLsb' 24 8 = slot)
    ∧ (r.r1.extractLsb' 0 16 = BitVec.ofNat 16 len ∧ r.r1.extractLsb' 16 16 = ident)
    ∧ r = { old with r0 := r.r0, r1 := r.r1 }

/-- HDR_LEN of an IPv4 window (44_ipv4.md R200). -/
def ihl4 (w : List Byte) : Nat := (byteAt w 0).toNat % 16 * 4

/-- TOTAL_LEN of an IPv4 window (44_ipv4.md R200). -/
def totalLen (w : List Byte) : Nat := (byteAt w 2).toNat * 256 + (byteAt w 3).toNat

/-- The four checks of 44_ipv4.md R201 pass. -/
abbrev Ipv4Fits (w : List Byte) : Prop := 20 ≤ w.length ∧ ihl4 w ≤ w.length ∧ ihl4 w ≤ totalLen w ∧ totalLen w ≤ w.length

/-- The payload W[hl .. tl] (44_ipv4.md R200). -/
def ipv4Bytes (w : List Byte) : List Byte := (w.take (totalLen w)).drop (ihl4 w)

/-- CSUM_OK (44_ipv4.md R202). -/
abbrev HeaderSumOk (s : State) (w : List Byte) : Prop :=
  s.ctrl.csumBypass = true ∨ csum (w.take (ihl4 w)) = 0xFFFF#16

/-- Neither the checksum check nor the TTL check drops the packet (44_ipv4.md R205). -/
def Ipv4Admitted (s : State) (w : List Byte) : Prop :=
  (s.ctrl.ipCsumEn = true → HeaderSumOk s w) ∧ byteAt w 8 ≠ 0#8

/-- The fragment offset in octets (30_encoding.md R107). -/
def fragOctets (w : List Byte) : Nat := ((byteAt w 6).toNat % 32 * 256 + (byteAt w 7).toNat) * 8

/-- A protocol the block delivers (30_encoding.md R108). -/
abbrev Delivered (proto : Byte) : Prop := proto = 1#8 ∨ proto = 17#8

/-- The slot `slot_for` picks: the lowest valid slot of the ident, else the lowest free slot (44_ipv4.md R209). -/
def SlotChosen (slots : List Slot) (id : Half) (k : Nat) : Prop :=
  (∃ x, slots[k]? = some x ∧ x.valid = true ∧ x.ident = id
      ∧ ∀ j, j < k → ∀ y, slots[j]? = some y → ¬ (y.valid = true ∧ y.ident = id))
    ∨ ((∀ y ∈ slots, ¬ (y.valid = true ∧ y.ident = id))
      ∧ ∃ x, slots[k]? = some x ∧ x.valid = false ∧ ∀ j, j < k → ∀ y, slots[j]? = some y → y.valid = true)

/-- No slot holds the ident and none is free (44_ipv4.md R209). -/
def NoSlotFor (slots : List Slot) (id : Half) : Prop := ∀ y ∈ slots, y.valid = true ∧ y.ident ≠ id

/-- A frame is pending, its length fits RX_BUF, and the medium is Ethernet (45_interface.md R233, R234). -/
def EthernetFramePending (s : State) : Prop :=
  s.rxPending = true ∧ s.rxLen.toNat ≤ s.params.rxBufSize.toNat ∧ s.ctrl.medium = false

/-- A frame is pending, its length fits RX_BUF, and the medium is IP (45_interface.md R233, R236). -/
def IpPacketPending (s : State) : Prop :=
  s.rxPending = true ∧ s.rxLen.toNat ≤ s.params.rxBufSize.toNat ∧ s.ctrl.medium = true

/-- The frame passes the destination filter: own address or broadcast (45_interface.md R235). -/
abbrev DstMatches (s : State) (w : List Byte) : Prop :=
  rd48 w 0 = s.macHi ++ s.macLo ∨ rd48 w 0 = 0xFFFFFFFFFFFF#48

/-- The pending frame passes the destination filter and the VLAN check; its L3 class is `l3` and its payload
starts at `hdr` (45_interface.md R235, 42_vlan.md R171). -/
def FrameAccepted (s : State) (l3 : BitVec 2) (hdr : Nat) : Prop :=
  ∃ k e v0 v1, EthShape (rxFrame s) k l3 hdr e v0 v1 ∧ DstMatches s (rxFrame s) ∧ vlanReason s.vlanCfg k v0 v1 = 0x00#8

/-- An ARP packet for Ethernet and IPv4 addresses that passes every check of 45_interface.md R238. -/
abbrev ArpWellFormed (p : List Byte) : Prop :=
  28 ≤ p.length ∧ rd16 p 0 = 0x0001#16 ∧ byteAt p 4 = 6#8 ∧ rd16 p 2 = 0x0800#16 ∧ byteAt p 5 = 4#8

/-- The tag bytes of a reply (42_vlan.md R173). -/
def replyTags (c : VlanCfg) : List Byte :=
  if c.txTag0 = true then
    [0x81#8, 0x00#8, (c.vid0.extractLsb' 8 4).setWidth 8, c.vid0.extractLsb' 0 8]
      ++ (if c.txTag1 = true then [0x81#8, 0x00#8, (c.vid1.extractLsb' 8 4).setWidth 8, c.vid1.extractLsb' 0 8] else [])
  else []

/-- The bytes of the reply to an ARP packet `p` (45_interface.md R240): SHA and SPA of `p` are its bytes
8..13 and 14..17, TPA its bytes 24..27. -/
def replyBytes (s : State) (p : List Byte) : List Byte :=
  let own := wr32 s.macHi ++ wr16 s.macLo
  let sha := (p.drop 8).take 6
  let spa := (p.drop 14).take 4
  let tpa := (p.drop 24).take 4
  sha ++ own ++ replyTags s.vlanCfg ++ [0x08#8, 0x06#8, 0x00#8, 0x01#8, 0x08#8, 0x00#8, 0x06#8, 0x04#8, 0x00#8, 0x02#8]
    ++ own ++ tpa ++ sha ++ spa

end Sys2Proof
end

