-- ==== Sys2Proof/Certificates/Slice0/Obligations.lean ====
section
/-!
DEFINITION. The statements for the provers. Each docstring names the rule of the spec, or says that the
statement is the model's own choice and names the log entry.
-/

open Sys2Proof Sys2Proof.Machine

/-! ### Encoding -/

/-- Decoding and encoding agree both ways: a word decodes to a command exactly when it is that command's
word, so each command has one word and no bit of it is dropped (30_encoding.md R80, R83). -/
def Obligations.DecodeInvertsEncode : Prop :=
  ∀ (c : Word) (i : Instr), decode c = .ok i ↔ c = encode i

/-- A word is illegal if its opcode is not in the table, if any of bits 31:9 is 1, or if B = 1 and the
command has no window; exactly those words decode to no command, and a write of one to CMD ends with
ILLEGAL, ERR_INFO holding the word, and changes no other state (30_encoding.md R81). -/
def Obligations.IllegalWordsEndWithIllegal : Prop :=
  ∀ (c : Word) (s : State) (rest : List HostOp), s.inbox = cmdWrite s.params c :: rest →
    ((∀ i, decode c ≠ .ok i) ↔
      (opcodeWindow (c.extractLsb' 0 8) = none ∨ c.extractLsb' 9 23 ≠ 0#23
        ∨ (c.getLsbD 8 = true ∧ opcodeWindow (c.extractLsb' 0 8) = some false)))
    ∧ ((∀ i, decode c ≠ .ok i) →
        step s = .next { s with
          inbox := rest, status := { busy := false, err := true, errCode := 0x01#8 }, errInfo := c })

/-- A word of each family, written out from the fields {reserved 31:9, B, OPC} (30_encoding.md R80, R83),
decodes to its command; the reserved opcode 0x24 and RX_POLL with B = 1 decode to none. -/
def Obligations.SampleWordsDecode : Prop :=
  decode (0#23 ++ 0#1 ++ 0x10#8) = .ok .csumClear ∧ decode (0#23 ++ 1#1 ++ 0x11#8) = .ok (.csumBytes .tx)
    ∧ decode (0#23 ++ 1#1 ++ 0x20#8) = .ok (.ethParse .tx) ∧ decode (0#23 ++ 0#1 ++ 0x28#8) = .ok (.vlanStrip .rx)
    ∧ decode (0#23 ++ 0#1 ++ 0x30#8) = .ok (.arpParse .rx) ∧ decode (0#23 ++ 1#1 ++ 0x41#8) = .ok (.ipv4Input .tx)
    ∧ decode (0#23 ++ 0#1 ++ 0x50#8) = .ok .rxPoll
    ∧ decode (0#23 ++ 0#1 ++ 0x24#8) = .error .reservedOpcode ∧ decode (0#23 ++ 1#1 ++ 0x50#8) = .error .bufferBit

/-! ### The step and the host interface -/

/-- A step whose oldest host operation writes a legal word to CMD runs the decoded command, on the state
without that operation (10_state.md R22); with no operation waiting the block keeps all its state
(60_exceptions.md R277). That host operations wait in `inbox` is the model's choice (log 2). -/
def Obligations.StepRunsDecodedCommand : Prop :=
  (∀ (s : State) (c : Word) (i : Instr) (rest : List HostOp),
      s.inbox = cmdWrite s.params c :: rest → decode c = .ok i → step s = exec i { s with inbox := rest })
    ∧ ∀ s : State, s.inbox = [] → step s = .next s

/-- The registers at a fixed offset: every row of 10_state.md R21 without an index, RES0 to RES7 in full. -/
def registerRows : List (Nat × Reg) :=
  [(0x000, .cmd), (0x004, .status), (0x008, .errInfo), (0x00C, .ctrl), (0x010, .arg0), (0x014, .arg1), (0x018, .arg2),
    (0x01C, .arg3), (0x020, .arg4), (0x024, .arg5), (0x040, .res0), (0x044, .res1), (0x048, .res2), (0x04C, .res3),
    (0x050, .res4), (0x054, .res5), (0x058, .res6), (0x05C, .res7), (0x060, .csumAcc), (0x064, .macHi), (0x068, .macLo),
    (0x06C, .vlanCfg), (0x070, .rxStatus), (0x074, .rxLen), (0x078, .txLen), (0x07C, .ipCount), (0x140, .param0),
    (0x144, .param1), (0x148, .id)]

/-- Some row of 10_state.md R21 puts register `r` at offset `off`; an index stays below its parameter. -/
def RegisterRow (p : Params) (off : Nat) (r : Reg) : Prop :=
  (off, r) ∈ registerRows
    ∨ (∃ i, i < p.nIpAddrs.toNat ∧ ((off = 0x080 + 8 * i ∧ r = .ipAddr i) ∨ (off = 0x084 + 8 * i ∧ r = .ipPrefix i)))
    ∨ ∃ k, k < p.nFragSlots.toNat ∧ off = 0x100 + 4 * k ∧ r = .fragStat k

/-- `v` is the value of register `r` in `s`, field by field (10_state.md R22 to R27, R29 to R33, R35 to R38, R40). -/
def RegisterHolds (s : State) (v : Word) : Reg → Prop
  | .cmd => v = 0#32
  | .status => v.getLsbD 0 = s.status.busy ∧ v.getLsbD 1 = s.status.err ∧ v.extractLsb' 2 6 = 0#6
      ∧ v.extractLsb' 8 8 = s.status.errCode ∧ v.extractLsb' 16 16 = 0#16
  | .errInfo => v = s.errInfo
  | .ctrl => v.getLsbD 0 = s.ctrl.medium ∧ v.getLsbD 1 = s.ctrl.ipCsumEn ∧ v.getLsbD 2 = s.ctrl.csumBypass
      ∧ v.extractLsb' 3 29 = 0#29
  | .arg0 => v = s.args.a0
  | .arg1 => v = s.args.a1
  | .arg2 => v = s.args.a2
  | .arg3 => v = s.args.a3
  | .arg4 => v = s.args.a4
  | .arg5 => v = s.args.a5
  | .res0 => v = s.res.r0
  | .res1 => v = s.res.r1
  | .res2 => v = s.res.r2
  | .res3 => v = s.res.r3
  | .res4 => v = s.res.r4
  | .res5 => v = s.res.r5
  | .res6 => v = s.res.r6
  | .res7 => v = s.res.r7
  | .csumAcc => v.extractLsb' 0 16 = s.csumAcc ∧ v.extractLsb' 16 16 = 0#16
  | .macHi => v = s.macHi
  | .macLo => v.extractLsb' 0 16 = s.macLo ∧ v.extractLsb' 16 16 = 0#16
  | .vlanCfg => v.extractLsb' 0 12 = s.vlanCfg.vid0 ∧ v.getLsbD 12 = s.vlanCfg.vid0En ∧ v.getLsbD 13 = s.vlanCfg.txTag0
      ∧ v.getLsbD 14 = s.vlanCfg.txTag1 ∧ v.getLsbD 15 = false ∧ v.extractLsb' 16 12 = s.vlanCfg.vid1
      ∧ v.getLsbD 28 = s.vlanCfg.vid1En ∧ v.extractLsb' 29 3 = 0#3
  | .rxStatus => v.getLsbD 0 = s.rxPending ∧ v.extractLsb' 1 31 = 0#31
  | .rxLen => v.extractLsb' 0 16 = s.rxLen ∧ v.extractLsb' 16 16 = 0#16
  | .txLen => v.extractLsb' 0 16 = s.txLen ∧ v.extractLsb' 16 16 = 0#16
  | .ipCount => v.extractLsb' 0 8 = BitVec.ofNat 8 s.addrs.length ∧ v.extractLsb' 8 24 = 0#24
  | .ipAddr i => (∀ e, s.addrs[i]? = some e → v = e.addr) ∧ (s.addrs.length ≤ i → v = 0#32)
  | .ipPrefix i => (∀ e, s.addrs[i]? = some e → v.extractLsb' 0 6 = e.plen ∧ v.extractLsb' 6 26 = 0#26)
      ∧ (s.addrs.length ≤ i → v = 0#32)
  | .fragStat k => ∀ x, s.slots[k]? = some x →
      v.getLsbD 0 = x.valid ∧ v.extractLsb' 1 15 = 0#15 ∧ v.extractLsb' 16 16 = x.ident
  | .param0 => v.extractLsb' 0 16 = s.params.rxBufSize ∧ v.extractLsb' 16 16 = s.params.txBufSize
  | .param1 => v.extractLsb' 0 16 = s.params.fragBufSize ∧ v.extractLsb' 16 8 = s.params.nFragSlots
      ∧ v.extractLsb' 24 8 = s.params.nIpAddrs
  | .id => v = 0x41504601#32

/-- A read changes nothing but what the host received, and the same read again returns the same value
(20_memory.md R65); a 32-bit read at the offset of a register completes and returns that register's value, with the
layouts of 10_state.md R22 to R40 (the field that holds what the host received is the model's, log 5). -/
def Obligations.ReadsHaveNoSideEffect : Prop :=
  (∀ (s t u : State) (w : Width) (addr : Word) (rest : List HostOp),
      s.inbox = .read w addr :: .read w addr :: rest → step s = .next t → step t = .next u →
      (∃ v, t = { s with inbox := .read w addr :: rest, busData := some v }
        ∧ u = { s with inbox := rest, busData := some v }))
    ∧ ∀ (s : State) (addr : Word) (off : Nat) (r : Reg) (rest : List HostOp),
      s.params.wf = true → s.inbox = .read .word addr :: rest → addr.toNat = s.params.base.toNat + off →
      RegisterRow s.params off r →
      ∃ v, step s = .next { s with inbox := rest, busData := some v } ∧ RegisterHolds s v r

/-- The bus serves an access of width `w` at `addr`: an aligned 32-bit access to a register of 10_state.md R21, an 8-bit
access to a byte of a space, or an aligned 32-bit access to four bytes of one space (20_memory.md R60, R63). Addresses are
relative to APF_BASE, so one below it reaches nothing (log 6). -/
def Served (p : Params) (w : Width) (addr : Word) : Prop :=
  ∃ off, addr.toNat = p.base.toNat + off
    ∧ ((w = .word ∧ off % 4 = 0 ∧ ∃ r, RegisterRow p off r)
      ∨ ∃ sp i, off = spaceStart sp + i ∧ i < spaceBytes p sp
        ∧ (w = .byte ∨ (w = .word ∧ off % 4 = 0 ∧ i + 4 ≤ spaceBytes p sp)))

/-- A host access faults exactly if the bus does not serve it: at an unmapped register offset, past the end of RX_BUF, TX_BUF
or a slot, in a gap between the ranges, below APF_BASE, of 16 bits, of 8 bits in the register space, of 32 bits at no multiple
of 4, or of 32 bits across the end of a space; every other access answers a next state (20_memory.md R60, R63, R64). That
alignment is tested on the offset from APF_BASE is the model's choice (log 6). -/
def Obligations.UnservedAccessesFault : Prop :=
  ∀ (s : State) (w : Width) (addr v : Word) (rest : List HostOp),
    (s.inbox = .read w addr :: rest ∨ s.inbox = .write w addr v :: rest) →
    (¬ Served s.params w addr → ∃ f, step s = .fault f) ∧ (Served s.params w addr → ∃ t, step s = .next t)

/-- An 8-bit host write to RX_BUF or TX_BUF replaces the addressed byte and nothing else; one to slot memory
is ignored; an 8-bit read returns the byte (20_memory.md R60, R61, R63; zero-extended, log 5). -/
def Obligations.HostByteAccess : Prop :=
  ∀ (s : State) (addr v : Word) (sp : Space) (i : Nat) (rest : List HostOp),
    addr.toNat = s.params.base.toNat + spaceStart sp + i → i < spaceBytes s.params sp →
    (s.inbox = .read .byte addr :: rest →
      step s = .next { s with inbox := rest, busData := some ((s.readByte sp i).setWidth 32) })
    ∧ (s.inbox = .write .byte addr v :: rest →
      ((∃ k, sp = .slot k) → step s = .next { s with inbox := rest })
      ∧ ((∀ k, sp ≠ .slot k) → ∃ t, step s = .next t ∧ t = { s.setMem sp (t.memOf sp) with inbox := rest }
        ∧ (∀ j, t.readByte sp j = if j = i then v.extractLsb' 0 8 else s.readByte sp j)
        ∧ ∀ sp' j, sp' ≠ sp → t.readByte sp' j = s.readByte sp' j))

/-- A 32-bit host access to a byte space maps the byte at the lowest address to bits 31:24 and the byte at
the highest address to bits 7:0, reading and writing, and no other byte or register changes (20_memory.md R63, R68); a 32-bit
write to slot memory is ignored (R61). -/
def Obligations.HostWordAccessIsBigEndian : Prop :=
  ∀ (s : State) (addr v : Word) (sp : Space) (i : Nat) (rest : List HostOp),
    addr.toNat = s.params.base.toNat + spaceStart sp + i → i % 4 = 0 → i + 4 ≤ spaceBytes s.params sp →
    (s.inbox = .read .word addr :: rest →
      step s = .next { s with
        inbox := rest,
        busData := some (s.readByte sp i ++ s.readByte sp (i + 1) ++ s.readByte sp (i + 2) ++ s.readByte sp (i + 3)) })
    ∧ (s.inbox = .write .word addr v :: rest → (∃ k, sp = .slot k) → step s = .next { s with inbox := rest })
    ∧ (s.inbox = .write .word addr v :: rest → (∀ k, sp ≠ .slot k) →
      ∃ t, step s = .next t ∧ t = { s.setMem sp (t.memOf sp) with inbox := rest }
        ∧ t.readByte sp i = v.extractLsb' 24 8 ∧ t.readByte sp (i + 1) = v.extractLsb' 16 8
        ∧ t.readByte sp (i + 2) = v.extractLsb' 8 8 ∧ t.readByte sp (i + 3) = v.extractLsb' 0 8
        ∧ (∀ j, (j < i ∨ i + 4 ≤ j) → t.readByte sp j = s.readByte sp j)
        ∧ ∀ sp' j, sp' ≠ sp → t.readByte sp' j = s.readByte sp' j)

/-- The bits of a read/write register that exist; 0 for a register the host cannot write (10_state.md R21,
R27, R29, R32, R33, R35, R36). -/
def writableBits : Reg → Word
  | .ctrl => 0x00000007#32
  | .arg0 | .arg1 | .arg2 | .arg3 | .arg4 | .arg5 | .macHi => 0xFFFFFFFF#32
  | .macLo | .rxLen => 0x0000FFFF#32
  | .vlanCfg => 0x1FFF7FFF#32
  | .rxStatus => 0x00000001#32
  | .cmd | .status | .errInfo | .res0 | .res1 | .res2 | .res3 | .res4 | .res5 | .res6 | .res7 | .csumAcc
  | .txLen | .ipCount | .ipAddr _ | .ipPrefix _ | .fragStat _ | .param0 | .param1 | .id => 0#32

/-- `s` after a host write of `v` to register `r` other than CMD: which field each written bit becomes; a register the host
cannot write stays (10_state.md R21, R27, R29, R32, R33, R35, R36). -/
def registerWritten (s : State) (v : Word) : Reg → State
  | .ctrl => { s with ctrl := { medium := v.getLsbD 0, ipCsumEn := v.getLsbD 1, csumBypass := v.getLsbD 2 } }
  | .arg0 => { s with args := { s.args with a0 := v } }
  | .arg1 => { s with args := { s.args with a1 := v } }
  | .arg2 => { s with args := { s.args with a2 := v } }
  | .arg3 => { s with args := { s.args with a3 := v } }
  | .arg4 => { s with args := { s.args with a4 := v } }
  | .arg5 => { s with args := { s.args with a5 := v } }
  | .macHi => { s with macHi := v }
  | .macLo => { s with macLo := v.extractLsb' 0 16 }
  | .vlanCfg => { s with
      vlanCfg := { vid0 := v.extractLsb' 0 12, vid0En := v.getLsbD 12, txTag0 := v.getLsbD 13, txTag1 := v.getLsbD 14,
                   vid1 := v.extractLsb' 16 12, vid1En := v.getLsbD 28 } }
  | .rxStatus => { s with rxPending := v.getLsbD 0 }
  | .rxLen => { s with rxLen := v.extractLsb' 0 16 }
  | .cmd | .status | .errInfo | .res0 | .res1 | .res2 | .res3 | .res4 | .res5 | .res6 | .res7 | .csumAcc
  | .txLen | .ipCount | .ipAddr _ | .ipPrefix _ | .fragStat _ | .param0 | .param1 | .id => s

/-- A 32-bit host write to a mapped register other than CMD: each written bit becomes its field of the state and nothing
else changes; a read/write register reads back the written value less its reserved bits, a read-only register ignores the write,
and every other register, every byte, and the port history stay as they were (10_state.md R21, R27, R29, R32, R33, R35, R36). -/
def Obligations.RegisterWriteReadsBack : Prop :=
  ∀ (s : State) (addr v : Word) (off : Nat) (r : Reg) (rest : List HostOp),
    s.params.wf = true → s.inbox = .write .word addr v :: rest → addr.toNat = s.params.base.toNat + off →
    RegisterRow s.params off r → r ≠ .cmd →
    ∃ t, step s = .next t ∧ t = { registerWritten s v r with inbox := rest }
      ∧ readReg t r = (if writableBits r = 0#32 then readReg s r else v &&& writableBits r)
      ∧ (∀ r', r' ≠ r → readReg t r' = readReg s r')
      ∧ (∀ sp j, t.readByte sp j = s.readByte sp j) ∧ t.history = s.history

/-- The register map is the table of 10_state.md R21, for every legal N_IP_ADDRS and N_FRAG_SLOTS: each row names its register
at its offset, and an offset that no row names, an indexed register at or above its parameter among them, is unmapped. -/
def Obligations.RegisterMapOffsets : Prop :=
  ∀ p : Params, p.wf = true → ∀ (off : Nat) (r : Reg), regAt p off = some r ↔ RegisterRow p off r

/-! ### Reset and constants -/

/-- After reset every register reads 0 but ID, PARAM0 and PARAM1, which read their constants (for the default
parameters of 00_scope.md R7); the address table is empty and every slot has VALID = 0 and IDENT = 0 (10_state.md R46). -/
def Obligations.ResetRegisterValues : Prop :=
  (∀ r : Reg, r ≠ .id → r ≠ .param0 → r ≠ .param1 → readReg State.reset r = 0#32)
    ∧ readReg State.reset .id = 0x41504601#32 ∧ readReg State.reset .param0 = 0x08000800#32
    ∧ readReg State.reset .param1 = 0x0404FFFF#32
    ∧ State.reset.addrs = [] ∧ ∀ x ∈ State.reset.slots, x.valid = false ∧ x.ident = 0#16

/-- The platform reset, in any state: every register but ID, PARAM0 and PARAM1 reads 0, the table is empty,
every slot is free, the port history is empty, and the parameters stay (70_reset_and_hazards.md R280; what the
model's own fields keep is its choice, log 8). -/
def Obligations.PlatformResetRestoresResetValues : Prop :=
  ∀ (s : State) (rest : List HostOp), s.inbox = .reset :: rest →
    ∃ t, step s = .next t ∧ (∀ r : Reg, r ≠ .id → r ≠ .param0 → r ≠ .param1 → readReg t r = 0#32)
      ∧ t.addrs = [] ∧ (∀ x ∈ t.slots, x.valid = false ∧ x.ident = 0#16) ∧ t.slots.length = s.params.nFragSlots.toNat
      ∧ t.history = [] ∧ t.params = s.params ∧ t.inbox = rest

/-- PARAM0[15:0] = RX_BUF_SIZE and PARAM0[31:16] = TX_BUF_SIZE; PARAM1[15:0] = FRAG_BUF_SIZE, PARAM1[23:16] =
N_FRAG_SLOTS and PARAM1[31:24] = N_IP_ADDRS; no step changes them (10_state.md R26). -/
def Obligations.ParameterRegisters : Prop :=
  ∀ s : State,
    (readReg s .param0).extractLsb' 0 16 = s.params.rxBufSize ∧ (readReg s .param0).extractLsb' 16 16 = s.params.txBufSize
    ∧ (readReg s .param1).extractLsb' 0 16 = s.params.fragBufSize
    ∧ (readReg s .param1).extractLsb' 16 8 = s.params.nFragSlots
    ∧ (readReg s .param1).extractLsb' 24 8 = s.params.nIpAddrs
    ∧ ∀ t, step s = .next t → t.params = s.params

/-! ### Rules of the whole machine -/

/-- The state after reset is sound. -/
def Obligations.ResetIsSound : Prop := SoundState State.reset

/-- Every step keeps a state sound: the address table sorted without equal entries and within its capacity
(10_state.md R38), no two valid slots with one ident (R41), the status as a completion leaves it (R23, R24), and
each space's memory in its canonical form and inside its size (20_memory.md R61, R62; log 11). -/
def Obligations.StepKeepsSound : Prop :=
  ∀ s t : State, SoundState s → step s = .next t → SoundState t

/-- Every command completes, successfully or with an error, with BUSY 0 (60_exceptions.md R268), and changes no
operand register (10_state.md R29), no configuration register (R34) and no parameter. -/
def Obligations.EveryCommandCompletes : Prop :=
  ∀ (i : Instr) (s : State), ∃ t, exec i s = .next t ∧ statusSound t.status t.errInfo
    ∧ t.args = s.args ∧ t.ctrl = s.ctrl ∧ t.macHi = s.macHi ∧ t.macLo = s.macLo ∧ t.vlanCfg = s.vlanCfg
    ∧ t.rxLen = s.rxLen ∧ t.params = s.params ∧ t.inbox = s.inbox ∧ t.busData = s.busData ∧ t.epoch = s.epoch

/-- Errors are precise: after an error of any command but RX_POLL the state is the state before the command but
for STATUS and ERR_INFO (60_exceptions.md R261). -/
def Obligations.ErrorsArePrecise : Prop :=
  ∀ (i : Instr) (s t : State), i ≠ .rxPoll → exec i s = .next t → t.status.err = true →
    t = { s with status := t.status, errInfo := t.errInfo }

/-- What survives an error of RX_POLL: PENDING is clear; TX_BUF and TX_LEN may differ on DEVICE_SEND only; the
port requests stay; every other piece of state is as before the command (45_interface.md R247). -/
def Obligations.PollErrorSurvivors : Prop :=
  ∀ s t : State, exec .rxPoll s = .next t → t.status.err = true →
    s.rxPending = true
    ∧ t = { s with
        status := t.status, errInfo := t.errInfo, rxPending := false, txBuf := t.txBuf, txLen := t.txLen,
        history := t.history, draws := t.draws }
    ∧ (t.status.errCode ≠ 0x0F#8 → t.txBuf = s.txBuf ∧ t.txLen = s.txLen ∧ t.history = s.history)
    ∧ s.history <+: t.history

/-- A command writes only the result registers its rule names: none for CSUM_CLEAR, CSUM_BYTES, CSUM_WORD,
CSUM_PSEUDO and the set commands; RES0 for CSUM_VERIFY, FRAG_FLUSH, ADDR_ADD and ADDR_DEL; RES0 and RES1 for
IPV4_INPUT and RX_POLL; RES0 to RES5 for ETH_PARSE; any for VLAN_STRIP, ARP_PARSE and IPV4_PARSE. A command that
ends with an error writes none (10_state.md R30, 30_encoding.md R90 to R97). -/
def Obligations.UnnamedResultsKeepTheirValues : Prop :=
  ∀ (i : Instr) (s t : State), exec i s = .next t →
    (t.status.err = true → t.res = s.res)
    ∧ match i with
      | .csumClear | .csumBytes _ | .csumWord | .csumPseudo | .ethSetDst _ | .ethSetSrc _ | .ethSetProto _
      | .arpSetSrcMap _ | .arpSetTgtMap _ | .arpSetOper _ => t.res = s.res
      | .csumVerify | .fragFlush | .addrAdd | .addrDel => t.res = { s.res with r0 := t.res.r0 }
      | .ipv4Input _ | .rxPoll => t.res = { s.res with r0 := t.res.r0, r1 := t.res.r1 }
      | .ethParse _ => t.res.r6 = s.res.r6 ∧ t.res.r7 = s.res.r7
      | .vlanStrip _ | .arpParse _ | .ipv4Parse _ => True

/-- Only the five checksum commands read or write the accumulator: any other command run with another
accumulator does the same and leaves that accumulator (10_state.md R31). -/
def Obligations.OnlyChecksumCommandsTouchAcc : Prop :=
  ∀ (i : Instr) (s t : State) (x : Half),
    i ≠ .csumClear → (∀ b, i ≠ .csumBytes b) → i ≠ .csumWord → i ≠ .csumPseudo → i ≠ .csumVerify →
    exec i s = .next t →
    t.csumAcc = s.csumAcc ∧ exec i { s with csumAcc := x } = .next { t with csumAcc := x }

/-- A window command changes no byte of RX_BUF or TX_BUF outside its window, and only IPV4_INPUT among the window
commands changes slot memory; a command without a window changes no byte of RX_BUF, and only RX_POLL changes TX_BUF or slot
memory among them (20_memory.md R62, 70_reset_and_hazards.md R286). The block never changes RX_BUF (10_state.md R45) but by
a set command whose window the host puts in RX_BUF with B = 0; that these write it is the model's choice (log 15). -/
def Obligations.CommandsStayInsideTheirWindow : Prop :=
  ∀ (i : Instr) (s t : State), exec i s = .next t →
    (∀ b, i.buf? = some b →
      (∀ sp j, (∀ k, sp ≠ .slot k) → ¬ (sp = spaceOf b ∧ winBase s ≤ j ∧ j < winBase s + winLen s) →
        t.readByte sp j = s.readByte sp j)
      ∧ ((∀ b', i ≠ .ipv4Input b') → ∀ k j, t.readByte (.slot k) j = s.readByte (.slot k) j))
    ∧ (i.buf? = none → (∀ j, t.readByte .rx j = s.readByte .rx j)
      ∧ (i ≠ .rxPoll → ∀ sp j, t.readByte sp j = s.readByte sp j))
    ∧ (i ∉ [Instr.ethSetDst .rx, .ethSetSrc .rx, .ethSetProto .rx, .arpSetSrcMap .rx, .arpSetTgtMap .rx, .arpSetOper .rx] →
        t.rxBuf = s.rxBuf)

/-- Only ADDR_ADD and ADDR_DEL change the address table (10_state.md R38); only IPV4_INPUT, FRAG_FLUSH and RX_POLL
change a slot; only RX_POLL writes TX_LEN (R37), clears PENDING (R48) or draws a port answer; only IPV4_INPUT and
RX_POLL make a port request. -/
def Obligations.WhoWritesWhat : Prop :=
  ∀ (i : Instr) (s t : State), exec i s = .next t →
    (i ≠ .addrAdd → i ≠ .addrDel → t.addrs = s.addrs)
    ∧ ((∀ b, i ≠ .ipv4Input b) → i ≠ .fragFlush → i ≠ .rxPoll → t.slots = s.slots)
    ∧ (i ≠ .rxPoll → t.txLen = s.txLen ∧ t.rxPending = s.rxPending ∧ t.draws = s.draws)
    ∧ ((∀ b, i ≠ .ipv4Input b) → i ≠ .rxPoll → t.history = s.history)

/-- Requests are recorded in the order they are emitted: no step but the platform reset takes an event out of the
history or changes one (10_state.md R44). -/
def Obligations.HistoryOnlyGrows : Prop :=
  ∀ s t : State, step s = .next t → (∀ rest, s.inbox ≠ .reset :: rest) → s.history <+: t.history

/-- The first check of every window command: with ARG0 + ARG1 > size(space) on unbounded naturals it ends with
BOUNDS and ERR_INFO = min(ARG0 + ARG1, 0xFFFFFFFF) (30_encoding.md R82). -/
def Obligations.WindowOutsideSpaceIsBounds : Prop :=
  ∀ (i : Instr) (b : Buf) (s : State), i.buf? = some b →
    spaceBytes s.params (spaceOf b) < s.args.a0.toNat + s.args.a1.toNat →
    ∃ info : Word, exec i s
        = .next { s with status := { busy := false, err := true, errCode := 0x02#8 }, errInfo := info }
      ∧ info.toNat = min (s.args.a0.toNat + s.args.a1.toNat) 0xFFFFFFFF

/-! ### Checksum family -/

/-- Ones'-complement addition: 0 only from 0 and 0, else in 1..0xFFFF and congruent to the sum modulo 0xFFFF;
commutative, associative, 0 its identity; 0xFFFF acts as stated (40_checksum.md R130). -/
def Obligations.OnesComplementAddition : Prop :=
  (∀ a b : Half, ocadd a b = 0#16 ↔ a = 0#16 ∧ b = 0#16)
    ∧ (∀ a b : Half, (ocadd a b).toNat % 0xFFFF = (a.toNat + b.toNat) % 0xFFFF)
    ∧ (∀ a b : Half, ocadd a b = ocadd b a)
    ∧ (∀ a b c : Half, ocadd (ocadd a b) c = ocadd a (ocadd b c))
    ∧ (∀ a : Half, ocadd 0#16 a = a)
    ∧ (∀ a : Half, a ≠ 0#16 → ocadd 0xFFFF#16 a = a) ∧ ocadd 0xFFFF#16 0#16 = 0xFFFF#16

/-- The sum of a byte string is the end-around sum of its big-endian words, an odd last byte padded with a low
zero byte; splitting at an even length adds the sums, and a piece of odd length that is not the last does not compose
this way (40_checksum.md R131, R132). -/
def Obligations.ChecksumComposes : Prop :=
  csum [] = 0#16 ∧ (∀ a : Byte, csum [a] = a ++ 0x00#8)
    ∧ (∀ (a b : Byte) (t : List Byte), csum (a :: b :: t) = ocadd (a ++ b) (csum t))
    ∧ (∀ x y : List Byte, x.length % 2 = 0 → csum (x ++ y) = ocadd (csum x) (csum y))
    ∧ ∃ x y : List Byte, x.length % 2 = 1 ∧ csum (x ++ y) ≠ ocadd (csum x) (csum y)

/-- A header whose checksum field, at an even offset, held zero verifies once the complement of its sum is
written there (40_checksum.md R139). -/
def Obligations.FilledHeaderVerifies : Prop :=
  ∀ x y : List Byte, x.length % 2 = 0 →
    csum (x ++ wr16 (~~~ (csum (x ++ [0x00#8, 0x00#8] ++ y))) ++ y) = 0xFFFF#16

/-- The pseudo-header sum is the fold of the plain sum of its six 16-bit words (40_checksum.md R137). -/
def Obligations.PseudoHeaderSum : Prop :=
  ∀ (src dst : IpAddr) (nh : Byte) (len : Half),
    pseudo4 src dst nh len
        = csum [src.extractLsb' 24 8, src.extractLsb' 16 8, src.extractLsb' 8 8, src.extractLsb' 0 8,
                dst.extractLsb' 24 8, dst.extractLsb' 16 8, dst.extractLsb' 8 8, dst.extractLsb' 0 8,
                0x00#8, nh, len.extractLsb' 8 8, len.extractLsb' 0 8]
    ∧ pseudo4 src dst nh len
        = fold ((src.extractLsb' 16 16).toNat + (src.extractLsb' 0 16).toNat + (dst.extractLsb' 16 16).toNat
            + (dst.extractLsb' 0 16).toNat + nh.toNat + len.toNat)

/-- CSUM_CLEAR clears ACC and changes nothing else; its only word is 0x00000010 (40_checksum.md R133). -/
def Obligations.CsumClearClears : Prop :=
  PlainEncoding .csumClear 0x00000010#32
    ∧ ∀ s : State, exec .csumClear s = .next (succeeded { s with csumAcc := 0x0000#16 })

/-- CSUM_BYTES adds the sum of its window's bytes to ACC and changes nothing else (40_checksum.md R134). -/
def Obligations.CsumBytesAddsWindow : Prop :=
  WindowEncoding .csumBytes 0x00000011#32 0x00000111#32 ∧ BoundsChecked .csumBytes
    ∧ ∀ (b : Buf) (s : State), WindowFits b s →
        exec (.csumBytes b) s = .next (succeeded { s with
          csumAcc := ocadd s.csumAcc (csum (s.readBytes (spaceOf b) s.args.a0.toNat s.args.a1.toNat)) })

/-- CSUM_WORD adds ARG2[15:0] to ACC, ignoring ARG2[31:16] (40_checksum.md R135). -/
def Obligations.CsumWordAddsOperand : Prop :=
  PlainEncoding .csumWord 0x00000012#32
    ∧ ∀ s : State, exec .csumWord s = .next (succeeded { s with csumAcc := ocadd s.csumAcc (s.args.a2.extractLsb' 0 16) })

/-- CSUM_PSEUDO adds the pseudo-header sum of ARG2, ARG3, ARG4[7:0], ARG4[31:16] if ARG5[1:0] = 0, and else ends
with ADDR_FAMILY_MISMATCH and ERR_INFO = ARG5[1:0] (40_checksum.md R136). -/
def Obligations.CsumPseudoAddsPseudoHeader : Prop :=
  PlainEncoding .csumPseudo 0x00000013#32
    ∧ ∀ s : State,
      (s.args.a5.extractLsb' 0 2 = 0#2 → exec .csumPseudo s = .next (succeeded { s with
        csumAcc := ocadd s.csumAcc
          (pseudo4 s.args.a2 s.args.a3 (s.args.a4.extractLsb' 0 8) (s.args.a4.extractLsb' 16 16)) }))
      ∧ (s.args.a5.extractLsb' 0 2 ≠ 0#2 →
        EndsWith .csumPseudo s 0x0A#8 ((s.args.a5.extractLsb' 0 2).setWidth 32))

/-- CSUM_VERIFY sets RES0 to 1 if ACC = 0xFFFF and else to 0, leaving ACC; CTRL.CSUM_BYPASS has no effect
(40_checksum.md R138, 10_state.md R28). -/
def Obligations.CsumVerifyTestsAllOnes : Prop :=
  PlainEncoding .csumVerify 0x00000014#32
    ∧ ∀ s : State, exec .csumVerify s = .next (succeeded { s with
        res := { s.res with r0 := if s.csumAcc = 0xFFFF#16 then 1#32 else 0#32 } })

/-! ### Ethernet and VLAN families -/

/-- ETH_PARSE: a window too short for its header ends with WRONG_LENGTH and the length needed; any other window
completes, and RES0 to RES5 report PKIND, L3 class, HDR_LEN, ETYPE, VID0, VID1 and the two MAC addresses; nothing else changes
(41_ethernet.md R151, R152; 30_encoding.md R91, R92). -/
def Obligations.EthParseReportsHeader : Prop :=
  WindowEncoding .ethParse 0x00000020#32 0x00000120#32 ∧ BoundsChecked .ethParse
    ∧ ∀ (b : Buf) (s : State), WindowFits b s →
      (∀ need, EthTooShort (winBytes b s) need → EndsWith (.ethParse b) s 0x03#8 (word32 need))
      ∧ (∀ k l3 hdr e v0 v1, EthShape (winBytes b s) k l3 hdr e v0 v1 →
          Reports (.ethParse b) s fun r =>
            EthReport (winBytes b s) k l3 hdr e v0 v1 r ∧ r.r6 = s.res.r6 ∧ r.r7 = s.res.r7)

/-- ETH_SET_DST writes ARG2 and ARG3[15:0] to window bytes 0..5 and ETH_SET_SRC to window bytes 6..11, most
significant byte first; no other byte and no register changes; a window too short ends with BOUNDS and 6 or 12
(41_ethernet.md R154, R155).
That B = 0 writes RX_BUF is the model's choice (log 15). -/
def Obligations.EthSetAddressesStore : Prop :=
  WindowEncoding .ethSetDst 0x00000021#32 0x00000121#32 ∧ BoundsChecked .ethSetDst
    ∧ WindowEncoding .ethSetSrc 0x00000022#32 0x00000122#32 ∧ BoundsChecked .ethSetSrc
    ∧ ∀ (b : Buf) (s : State), WindowFits b s →
      let mac := [s.args.a2.extractLsb' 24 8, s.args.a2.extractLsb' 16 8, s.args.a2.extractLsb' 8 8,
        s.args.a2.extractLsb' 0 8, s.args.a3.extractLsb' 8 8, s.args.a3.extractLsb' 0 8]
      (winLen s < 6 → EndsWith (.ethSetDst b) s 0x02#8 6#32)
      ∧ (6 ≤ winLen s → ∃ t, exec (.ethSetDst b) s = .next t ∧ Stores s t (spaceOf b) (winBase s) mac)
      ∧ (winLen s < 12 → EndsWith (.ethSetSrc b) s 0x02#8 12#32)
      ∧ (12 ≤ winLen s → ∃ t, exec (.ethSetSrc b) s = .next t ∧ Stores s t (spaceOf b) (winBase s + 6) mac)

/-- The bytes ETH_SET_PROTO writes from window byte 12 on and the window length it needs, by PKIND
(41_ethernet.md R156, 30_encoding.md R101, R102). -/
def protoHeader (k : BitVec 3) (et : Half) (v0 v1 : Vid) : Nat × List Byte :=
  let e := [et.extractLsb' 8 8, et.extractLsb' 0 8]
  let tag := fun v : Vid => [0x81#8, 0x00#8, (v.extractLsb' 8 4).setWidth 8, v.extractLsb' 0 8]
  if k = 1#3 then (18, tag v0 ++ e) else if k = 2#3 then (22, tag v0 ++ tag v1 ++ e) else (14, e)

/-- ETH_SET_PROTO: PKIND 5..7 ends with ILLEGAL and ARG2, a window too short with BOUNDS and the length needed;
otherwise the tags, with priority/CFI 0, and the EtherType are written from window byte 12 on and no other byte or register
changes (41_ethernet.md R156).
That B = 0 writes RX_BUF is the model's choice (log 15). -/
def Obligations.EthSetProtoStoresHeader : Prop :=
  WindowEncoding .ethSetProto 0x00000023#32 0x00000123#32 ∧ BoundsChecked .ethSetProto
    ∧ ∀ (b : Buf) (s : State), WindowFits b s →
      let k := s.args.a2.extractLsb' 0 3
      let h := protoHeader k (s.args.a2.extractLsb' 16 16) (s.args.a3.extractLsb' 0 12) (s.args.a3.extractLsb' 16 12)
      if 5 ≤ k.toNat then EndsWith (.ethSetProto b) s 0x01#8 s.args.a2
      else if winLen s < h.1 then EndsWith (.ethSetProto b) s 0x02#8 (word32 h.1)
      else ∃ t, exec (.ethSetProto b) s = .next t ∧ Stores s t (spaceOf b) (winBase s + 12) h.2

/-- Tagging round trip: what ETH_SET_PROTO wrote, ETH_PARSE of the same window reports, for QINQ, for Q with an
EtherType that is not the TPID, and for L3, LENGTH and UNKNOWN with an EtherType of that kind (41_ethernet.md R157).
That B = 0 writes RX_BUF is the model's choice (log 15). -/
def Obligations.TaggingRoundTrip : Prop :=
  ∀ (b : Buf) (s t : State) (k : BitVec 3) (et : Half) (v0 v1 : Vid),
    WindowFits b s → 22 ≤ winLen s →
    k = s.args.a2.extractLsb' 0 3 → et = s.args.a2.extractLsb' 16 16 →
    v0 = s.args.a3.extractLsb' 0 12 → v1 = s.args.a3.extractLsb' 16 12 →
    (k = 2#3
      ∨ (k = 1#3 ∧ et ≠ 0x8100#16)
      ∨ (k = 0#3 ∧ (et = 0x0800#16 ∨ et = 0x0806#16 ∨ et = 0x86DD#16))
      ∨ (k = 3#3 ∧ et.toNat < 0x05DC)
      ∨ (k = 4#3 ∧ et ≠ 0x8100#16 ∧ et ≠ 0x0800#16 ∧ et ≠ 0x0806#16 ∧ et ≠ 0x86DD#16 ∧ 0x05DC ≤ et.toNat)) →
    exec (.ethSetProto b) s = .next t →
    ∃ u, exec (.ethParse b) t = .next u ∧ u.status.err = false
      ∧ u.res.r0.extractLsb' 0 3 = k
      ∧ u.res.r0.extractLsb' 4 2 = (if k = 3#3 ∨ k = 4#3 then 3#2 else l3Code et)
      ∧ u.res.r0.extractLsb' 8 8 = (if k = 1#3 then 18#8 else if k = 2#3 then 22#8 else 14#8)
      ∧ u.res.r0.extractLsb' 16 16 = et
      ∧ u.res.r1.extractLsb' 0 12 = (if k = 1#3 ∨ k = 2#3 then v0 else 0#12)
      ∧ u.res.r1.extractLsb' 16 12 = (if k = 2#3 then v1 else 0#12)

/-- VLAN_STRIP reports the header as ETH_PARSE does, and in RES6 and RES7 the VLAN check, its reason, and where the
untagged payload lies; a failed check is no error; no byte changes (42_vlan.md R171, R172; 30_encoding.md R93). -/
def Obligations.VlanStripReportsPayload : Prop :=
  WindowEncoding .vlanStrip 0x00000028#32 0x00000128#32 ∧ BoundsChecked .vlanStrip
    ∧ ∀ (b : Buf) (s : State), WindowFits b s →
      (∀ need, EthTooShort (winBytes b s) need → EndsWith (.vlanStrip b) s 0x03#8 (word32 need))
      ∧ (∀ k l3 hdr e v0 v1, EthShape (winBytes b s) k l3 hdr e v0 v1 →
          Reports (.vlanStrip b) s fun r =>
            EthReport (winBytes b s) k l3 hdr e v0 v1 r
            ∧ (r.r6.getLsbD 0 = true ↔ vlanReason s.vlanCfg k v0 v1 = 0x00#8) ∧ r.r6.extractLsb' 1 7 = 0#7
            ∧ r.r6.extractLsb' 8 8 = vlanReason s.vlanCfg k v0 v1
            ∧ r.r6.extractLsb' 16 16 = BitVec.ofNat 16 (winLen s - hdr)
            ∧ r.r7.toNat = winBase s + hdr)

/-! ### ARP family -/

/-- ARP_PARSE: the four errors in their order, and else RES0 to RES7 report HTYPE, PTYPE, HLEN, PLEN, OPER and the four
addresses at the offsets the packet's own lengths give, an address of an Unknown type reading 0
(43_arp.md R181 to R183; 30_encoding.md R94, R105, R106). -/
def Obligations.ArpParseReportsPacket : Prop :=
  WindowEncoding .arpParse 0x00000030#32 0x00000130#32 ∧ BoundsChecked .arpParse
    ∧ ∀ (b : Buf) (s : State), WindowFits b s →
      let w := winBytes b s
      let hl := (byteAt w 4).toNat
      let pl := (byteAt w 5).toNat
      let ht := rd16 w 0
      let pt := rd16 w 2
      if w.length < 8 then EndsWith (.arpParse b) s 0x04#8 8#32
      else if w.length < 8 + 2 * hl + 2 * pl then
        EndsWith (.arpParse b) s 0x05#8 (word32 (8 + 2 * hl + 2 * pl))
      else if ht = 1#16 ∧ hl ≠ 6 then EndsWith (.arpParse b) s 0x06#8 (word32 hl)
      else if pt = 0x0800#16 ∧ pl ≠ 4 then EndsWith (.arpParse b) s 0x07#8 (word32 pl)
      else Reports (.arpParse b) s fun r =>
        r.r0.extractLsb' 0 16 = ht ∧ r.r0.extractLsb' 16 16 = pt
        ∧ (r.r1.extractLsb' 0 8).toNat = hl ∧ (r.r1.extractLsb' 8 8).toNat = pl ∧ r.r1.extractLsb' 16 16 = rd16 w 6
        ∧ r.r2 = (if ht = 1#16 then rd32 w 8 else 0#32)
        ∧ r.r3 = (if ht = 1#16 then (rd16 w 12).setWidth 32 else 0#32)
        ∧ r.r4 = (if pt = 0x0800#16 then rd32 w (8 + hl) else 0#32)
        ∧ r.r5 = (if ht = 1#16 then rd32 w (8 + hl + pl) else 0#32)
        ∧ r.r6 = (if ht = 1#16 then (rd16 w (12 + hl + pl)).setWidth 32 else 0#32)
        ∧ r.r7 = (if pt = 0x0800#16 then rd32 w (8 + 2 * hl + pl) else 0#32)

/-- What an ARP set command does, for the offsets `ha` and `pa` its side gives (43_arp.md R184). -/
def ArpMapSpec (mk : Buf → Instr) (haOf paOf : Nat → Nat → Nat) : Prop :=
  ∀ (b : Buf) (s : State), WindowFits b s →
    let w := winBytes b s
    let hwk := s.args.a3.getLsbD 16
    let prk := s.args.a3.getLsbD 17
    let hl := if hwk then (byteAt w 4).toNat else 6
    let pl := if prk then (byteAt w 5).toNat else 4
    let ha := haOf hl pl
    let pa := paOf hl pl
    let need := max 8 (max (if hwk then 0 else ha + 6) (if prk then 0 else pa + 4))
    let ht := if hwk then s.args.a5.extractLsb' 0 16 else 1#16
    let pt := if prk then s.args.a5.extractLsb' 16 16 else 0x0800#16
    if w.length < 8 then EndsWith (mk b) s 0x02#8 8#32
    else if w.length < need then EndsWith (mk b) s 0x02#8 (word32 need)
    else ∃ t, exec (mk b) s = .next t
      ∧ t = succeeded (s.setMem (spaceOf b) (t.memOf (spaceOf b)))
      ∧ (∀ sp' j, sp' ≠ spaceOf b → t.readByte sp' j = s.readByte sp' j)
      ∧ (∀ j, j < winBase s → t.readByte (spaceOf b) j = s.readByte (spaceOf b) j)
      ∧ ∀ j, t.readByte (spaceOf b) (winBase s + j) =
          if prk = false ∧ pa ≤ j ∧ j < pa + 4 then s.args.a4.extractLsb' (8 * (3 - (j - pa))) 8
          else if hwk = false ∧ ha ≤ j ∧ j < ha + 6 then
            (s.args.a2 ++ s.args.a3.extractLsb' 0 16 : BitVec 48).extractLsb' (8 * (5 - (j - ha))) 8
          else if j = 0 then ht.extractLsb' 8 8 else if j = 1 then ht.extractLsb' 0 8
          else if j = 2 then pt.extractLsb' 8 8 else if j = 3 then pt.extractLsb' 0 8
          else if hwk = false ∧ j = 4 then 6#8 else if prk = false ∧ j = 5 then 4#8
          else s.readByte (spaceOf b) (winBase s + j)

/-- ARP_SET_SRC_MAP and ARP_SET_TGT_MAP, for every combination of HWK and PRK: all checks before the first write; the
type fields always, the length bytes and the addresses for the concrete variants only, at the offsets the lengths after the write
give; no other byte and no register changes (43_arp.md R184, R185, R186).
That B = 0 writes RX_BUF is the model's choice (log 15). -/
def Obligations.ArpSetMapsStore : Prop :=
  WindowEncoding .arpSetSrcMap 0x00000031#32 0x00000131#32 ∧ BoundsChecked .arpSetSrcMap
    ∧ WindowEncoding .arpSetTgtMap 0x00000032#32 0x00000132#32 ∧ BoundsChecked .arpSetTgtMap
    ∧ ArpMapSpec .arpSetSrcMap (fun _ _ => 8) (fun hl _ => 8 + hl)
    ∧ ArpMapSpec .arpSetTgtMap (fun hl pl => 8 + hl + pl) (fun hl pl => 8 + 2 * hl + pl)

/-- ARP_SET_OPER writes ARG2[15:0] to window bytes 6..7 and changes nothing else; a window shorter than 8 ends with
BOUNDS and 8 (43_arp.md R187).
That B = 0 writes RX_BUF is the model's choice (log 15). -/
def Obligations.ArpSetOperStores : Prop :=
  WindowEncoding .arpSetOper 0x00000033#32 0x00000133#32 ∧ BoundsChecked .arpSetOper
    ∧ ∀ (b : Buf) (s : State), WindowFits b s →
      (winLen s < 8 → EndsWith (.arpSetOper b) s 0x02#8 8#32)
      ∧ (8 ≤ winLen s → ∃ t, exec (.arpSetOper b) s = .next t
          ∧ Stores s t (spaceOf b) (winBase s + 6) [s.args.a2.extractLsb' 8 8, s.args.a2.extractLsb' 0 8])

/-- ARP field round trip: on a window of at least 28 bytes, the two set commands with HWK = PRK = 0, in either order,
the host changing ARG2 to ARG4 between them, then ARP_PARSE reports both MAC addresses and both IPv4 addresses as written
(43_arp.md R188).
That B = 0 writes RX_BUF is the model's choice (log 15). -/
def Obligations.ArpMapRoundTrip : Prop :=
  ∀ (b : Buf) (srcFirst : Bool) (s t u : State) (a : Args),
    let first := if srcFirst then Instr.arpSetSrcMap b else Instr.arpSetTgtMap b
    let second := if srcFirst then Instr.arpSetTgtMap b else Instr.arpSetSrcMap b
    let src := if srcFirst then s.args else a
    let tgt := if srcFirst then a else s.args
    WindowFits b s → 28 ≤ winLen s → s.args.a3.extractLsb' 16 2 = 0#2 → a.a3.extractLsb' 16 2 = 0#2 →
    a.a0 = s.args.a0 → a.a1 = s.args.a1 →
    exec first s = .next t → exec second { t with args := a } = .next u →
    ∃ v, exec (.arpParse b) u = .next v ∧ v.status.err = false
      ∧ v.res.r0 = 0x08000001#32 ∧ v.res.r1.extractLsb' 0 16 = 0x0406#16
      ∧ v.res.r2 = src.a2 ∧ v.res.r3 = (src.a3.extractLsb' 0 16).setWidth 32 ∧ v.res.r4 = src.a4
      ∧ v.res.r5 = tgt.a2 ∧ v.res.r6 = (tgt.a3.extractLsb' 0 16).setWidth 32 ∧ v.res.r7 = tgt.a4

/-! ### IPv4 family -/

/-- IPV4_PARSE: the four errors in their order (MALFORMED before the check against TOTAL_LEN), and else RES0 to RES7
report every header field, CSUM_OK and the payload's place; a bad checksum is no error (44_ipv4.md R201 to R203;
30_encoding.md R95, R107). -/
def Obligations.Ipv4ParseReportsHeader : Prop :=
  WindowEncoding .ipv4Parse 0x00000040#32 0x00000140#32 ∧ BoundsChecked .ipv4Parse
    ∧ ∀ (b : Buf) (s : State), WindowFits b s →
      let w := winBytes b s
      if w.length < 20 then EndsWith (.ipv4Parse b) s 0x04#8 20#32
      else if w.length < ihl4 w then EndsWith (.ipv4Parse b) s 0x04#8 (word32 (ihl4 w))
      else if totalLen w < ihl4 w then
        EndsWith (.ipv4Parse b) s 0x08#8 (BitVec.ofNat 16 (ihl4 w) ++ BitVec.ofNat 16 (totalLen w))
      else if w.length < totalLen w then EndsWith (.ipv4Parse b) s 0x04#8 (word32 (totalLen w))
      else Reports (.ipv4Parse b) s fun r =>
        r.r0.extractLsb' 0 8 = byteAt w 0 ∧ (r.r0.extractLsb' 8 8).toNat = ihl4 w
        ∧ r.r0.extractLsb' 16 16 = byteAt w 2 ++ byteAt w 3
        ∧ r.r1.extractLsb' 0 6 = (byteAt w 1).extractLsb' 2 6 ∧ r.r1.extractLsb' 6 2 = (byteAt w 1).extractLsb' 0 2
        ∧ r.r1.extractLsb' 8 8 = byteAt w 8 ∧ r.r1.extractLsb' 16 8 = byteAt w 9
        ∧ r.r1.getLsbD 24 = (byteAt w 6).getLsbD 6 ∧ r.r1.getLsbD 25 = (byteAt w 6).getLsbD 5
        ∧ (r.r1.getLsbD 26 = true ↔ HeaderSumOk s w) ∧ r.r1.extractLsb' 27 5 = 0#5
        ∧ r.r2.extractLsb' 0 16 = byteAt w 4 ++ byteAt w 5 ∧ (r.r2.extractLsb' 16 16).toNat = fragOctets w
        ∧ r.r3.extractLsb' 0 16 = byteAt w 10 ++ byteAt w 11 ∧ r.r3.extractLsb' 16 16 = 0#16
        ∧ r.r4 = byteAt w 12 ++ byteAt w 13 ++ byteAt w 14 ++ byteAt w 15
        ∧ r.r5 = byteAt w 16 ++ byteAt w 17 ++ byteAt w 18 ++ byteAt w 19
        ∧ r.r6.toNat = winBase s + ihl4 w ∧ r.r7.toNat = totalLen w - ihl4 w

/-- IPV4_INPUT without reassembly: the header errors; BAD_CSUM only with IP_CSUM_EN and checked before TTL; TTL_ZERO; and with
DF = 1 the payload goes to the Deliver port for ICMP and UDP and is L4_IGNORED for any other protocol, no slot touched
(44_ipv4.md R204 to R207). -/
def Obligations.Ipv4InputDirect : Prop :=
  WindowEncoding .ipv4Input 0x00000041#32 0x00000141#32 ∧ BoundsChecked .ipv4Input
    ∧ ∀ (b : Buf) (s : State), WindowFits b s →
      let w := winBytes b s
      let report := fun (outcome : BitVec 4) (reason : Byte) (len : Nat) =>
        OutcomeReport outcome reason (byteAt w 9) 0xFF#8 len (rd16 w 4) s.res
      (¬ Ipv4Fits w → ∃ (code : Byte) (info : Word), exec (.ipv4Input b) s = .next (errored code info s)
        ∧ exec (.ipv4Parse b) s = .next (errored code info s))
      ∧ (Ipv4Fits w →
          if s.ctrl.ipCsumEn = true ∧ ¬ HeaderSumOk s w then Reports (.ipv4Input b) s (report 1#4 0x07#8 0)
          else if byteAt w 8 = 0#8 then Reports (.ipv4Input b) s (report 1#4 0x08#8 0)
          else (byteAt w 6).getLsbD 6 = true →
            if Delivered (byteAt w 9) then
              ∃ r, exec (.ipv4Input b) s
                  = .next (succeeded { s with res := r, history := s.history ++ [.deliver (byteAt w 9) (ipv4Bytes w)] })
                ∧ report 3#4 0x00#8 (totalLen w - ihl4 w) r
            else Reports (.ipv4Input b) s (report 1#4 0x0B#8 0))

/-- IPV4_INPUT with DF = 0: FRAG_OVERFLOW before a slot is claimed; FRAG_NO_SLOT; else the fragment is written at its
offset into the ident's own slot or the lowest free one, no other slot and no other byte changes, and the result is HELD with MF = 1, and with
MF = 0 the first offset + length bytes of the slot delivered or ignored by protocol and the slot freed
(44_ipv4.md R208 to R211). -/
def Obligations.Ipv4InputReassembles : Prop :=
  ∀ (b : Buf) (s : State), WindowFits b s →
    let w := winBytes b s
    let off := fragOctets w
    let p := ipv4Bytes w
    let id := rd16 w 4
    let report := fun (outcome : BitVec 4) (reason slot : Byte) (len : Nat) =>
      OutcomeReport outcome reason (byteAt w 9) slot len id s.res
    Ipv4Fits w → Ipv4Admitted s w → (byteAt w 6).getLsbD 6 = false →
      if s.params.fragBufSize.toNat < off + p.length then Reports (.ipv4Input b) s (report 1#4 0x0A#8 0xFF#8 0)
      else
        (NoSlotFor s.slots id → Reports (.ipv4Input b) s (report 1#4 0x09#8 0xFF#8 0))
        ∧ ∀ k, SlotChosen s.slots id k → ∃ t, exec (.ipv4Input b) s = .next t
          ∧ t = succeeded { s with slots := t.slots, res := t.res, history := t.history }
          ∧ (∀ j, j ≠ k → t.slots[j]? = s.slots[j]?)
          ∧ (∃ x, t.slots[k]? = some x ∧ x.ident = id ∧ x.valid = (byteAt w 6).getLsbD 5)
          ∧ (∀ j, t.readByte (.slot k) j
              = if off ≤ j ∧ j < off + p.length then p.getD (j - off) 0#8 else s.readByte (.slot k) j)
          ∧ if (byteAt w 6).getLsbD 5 = true then
              report 4#4 0x00#8 (BitVec.ofNat 8 k) p.length t.res ∧ t.history = s.history
            else if Delivered (byteAt w 9) then
              report 3#4 0x00#8 (BitVec.ofNat 8 k) (off + p.length) t.res
                ∧ t.history = s.history ++ [.deliver (byteAt w 9) (t.readBytes (.slot k) 0 (off + p.length))]
            else report 1#4 0x0B#8 (BitVec.ofNat 8 k) (off + p.length) t.res ∧ t.history = s.history

/-- The window of `b` holds a fragment that is not dropped by the header checks (44_ipv4.md R205, R208). -/
def FragmentIn (b : Buf) (s : State) (id : Half) (off : Nat) (mf : Bool) (p : List Byte) : Prop :=
  WindowFits b s ∧ Ipv4Fits (winBytes b s) ∧ Ipv4Admitted s (winBytes b s)
    ∧ (byteAt (winBytes b s) 6).getLsbD 6 = false ∧ (byteAt (winBytes b s) 6).getLsbD 5 = mf
    ∧ rd16 (winBytes b s) 4 = id ∧ fragOctets (winBytes b s) = off ∧ ipv4Bytes (winBytes b s) = p

/-- From one command to the next only host writes: the slots, the epoch, the parameters and the history stay. -/
def OnlyHostWrites (t s : State) : Prop :=
  s.slots = t.slots ∧ s.epoch = t.epoch ∧ s.params = t.params ∧ s.history = t.history

/-- Reassembly: three fragments of one ident, the two with MF = 1 in either order and the final one last, give HELD,
HELD and DELIVERED, and the one Deliver request carries the three payloads concatenated in offset order, whatever else the host writes
between the commands (44_ipv4.md R212). -/
def Obligations.ThreeFragmentsReassemble : Prop :=
  ∀ (b1 b2 b3 : Buf) (s1 s2 s3 t1 t2 : State) (id : Half) (p1 p2 p3 : List Byte) (k : Nat),
    p1.length + p2.length + p3.length ≤ s1.params.fragBufSize.toNat →
    SlotChosen s1.slots id k →
    ((FragmentIn b1 s1 id 0 true p1 ∧ FragmentIn b2 s2 id p1.length true p2)
      ∨ (FragmentIn b1 s1 id p1.length true p2 ∧ FragmentIn b2 s2 id 0 true p1)) →
    FragmentIn b3 s3 id (p1.length + p2.length) false p3 →
    Delivered (byteAt (winBytes b3 s3) 9) →
    exec (.ipv4Input b1) s1 = .next t1 → OnlyHostWrites t1 s2 →
    exec (.ipv4Input b2) s2 = .next t2 → OnlyHostWrites t2 s3 →
    ∃ t3, exec (.ipv4Input b3) s3 = .next t3
      ∧ t1.res.r0.extractLsb' 0 4 = 4#4 ∧ t2.res.r0.extractLsb' 0 4 = 4#4 ∧ t3.res.r0.extractLsb' 0 4 = 3#4
      ∧ t3.res.r1.extractLsb' 0 16 = BitVec.ofNat 16 (p1.length + p2.length + p3.length)
      ∧ t3.history = s1.history ++ [.deliver (byteAt (winBytes b3 s3) 9) (p1 ++ p2 ++ p3)]

/-- No fragment of one ident is written into another ident's slot: IPV4_INPUT and RX_POLL leave every valid slot whose
ident is not the one they report in RES1[31:16] as it was, its bytes included, and every slot when they end with an error
(10_state.md R41, 45_interface.md R247). -/
def Obligations.OtherIdentsKeepTheirSlots : Prop :=
  ∀ (i : Instr) (s t : State), (i = .rxPoll ∨ ∃ b, i = .ipv4Input b) → exec i s = .next t →
    (t.status.err = true → t.slots = s.slots)
    ∧ (t.status.err = false → ∀ (k : Nat) (x : Slot), s.slots[k]? = some x → x.valid = true →
        x.ident ≠ t.res.r1.extractLsb' 16 16 → t.slots[k]? = some x)

/-- FRAG_FLUSH frees the slot ARG2[7:0] names, or all for 0xFF, keeps IDENT and DATA, and reports in RES0 how many went from
valid to free; a slot number at or above N_FRAG_SLOTS other than 0xFF ends with ILLEGAL and ARG2 (44_ipv4.md R213). -/
def Obligations.FragFlushFreesSlots : Prop :=
  PlainEncoding .fragFlush 0x00000042#32
    ∧ ∀ s : State,
      let n := s.args.a2.extractLsb' 0 8
      if n ≠ 0xFF#8 ∧ s.params.nFragSlots.toNat ≤ n.toNat then EndsWith .fragFlush s 0x01#8 s.args.a2
      else ∃ t, exec .fragFlush s = .next t
        ∧ t = succeeded { s with slots := t.slots, res := { s.res with r0 := t.res.r0 } }
        ∧ t.slots.length = s.slots.length
        ∧ (∀ (k : Nat) (x : Slot), s.slots[k]? = some x →
            t.slots[k]? = some { x with valid := if n = 0xFF#8 ∨ n.toNat = k then false else x.valid })
        ∧ t.res.r0 = word32 ((s.slots.zip t.slots).countP fun xy => xy.1.valid && !xy.2.valid)

/-! ### Interface family -/

/-- `owned(a)` is true iff some entry of the table has the address `a`; the prefix length takes no part
(10_state.md R39). -/
def Obligations.OwnedIsExactMatch : Prop :=
  ∀ (s : State) (a : IpAddr), owned s a = true ↔ ∃ i, ∃ h : i < s.addrs.length, (s.addrs[i]).addr = a

/-- Entry `e` is the pair of the operands (ARG2, ARG3[7:0]) (45_interface.md R230, R231). -/
abbrev IsOperandEntry (s : State) (e : AddrEntry) : Prop :=
  e.addr = s.args.a2 ∧ e.plen.toNat = (s.args.a3.extractLsb' 0 8).toNat

/-- ADDR_ADD on a sound table: BAD_PREFIX above 32; an entry already present changes nothing; NO_SPACE_ADDRS when the table
is full; else the entry is added, the table stays sorted, and RES0 is the new IP_COUNT (45_interface.md R230). -/
def Obligations.AddrAddInserts : Prop :=
  PlainEncoding .addrAdd 0x00000048#32
    ∧ ∀ s : State, tableSound s.params.nIpAddrs.toNat s.addrs →
      let p := s.args.a3.extractLsb' 0 8
      if 32 < p.toNat then EndsWith .addrAdd s 0x0E#8 (p.setWidth 32)
      else if ∃ e ∈ s.addrs, IsOperandEntry s e then
        exec .addrAdd s = .next (succeeded { s with res := { s.res with r0 := word32 s.addrs.length } })
      else if s.addrs.length = s.params.nIpAddrs.toNat then
        EndsWith .addrAdd s 0x0C#8 (s.params.nIpAddrs.setWidth 32)
      else ∃ t, exec .addrAdd s = .next t
        ∧ t = succeeded { s with addrs := t.addrs, res := { s.res with r0 := word32 (s.addrs.length + 1) } }
        ∧ t.addrs.length = s.addrs.length + 1 ∧ t.addrs.Pairwise (fun x y => x.key.toNat < y.key.toNat)
        ∧ ∀ e, e ∈ t.addrs ↔ e ∈ s.addrs ∨ IsOperandEntry s e

/-- ADDR_DEL on a sound table: IP_ADDR_NOT_FOUND with ARG2 when no entry equals the operands; else that entry alone is removed,
and RES0 is the new IP_COUNT (45_interface.md R231). -/
def Obligations.AddrDelRemoves : Prop :=
  PlainEncoding .addrDel 0x00000049#32
    ∧ ∀ s : State, tableSound s.params.nIpAddrs.toNat s.addrs →
      if ∃ e ∈ s.addrs, IsOperandEntry s e then
        ∃ t, exec .addrDel s = .next t
          ∧ t = succeeded { s with addrs := t.addrs, res := { s.res with r0 := word32 (s.addrs.length - 1) } }
          ∧ t.addrs.length + 1 = s.addrs.length ∧ t.addrs.Pairwise (fun x y => x.key.toNat < y.key.toNat)
          ∧ ∀ e, e ∈ t.addrs ↔ e ∈ s.addrs ∧ ¬ IsOperandEntry s e
      else EndsWith .addrDel s 0x0D#8 s.args.a2

/-- RX_POLL with PENDING = 0 completes with OUTCOME = NO_FRAME, SLOT = 0xFF and every other field 0, and changes nothing else
(45_interface.md R233). -/
def Obligations.PollWithoutFrame : Prop :=
  PlainEncoding .rxPoll 0x00000050#32
    ∧ ∀ s : State, s.rxPending = false →
      exec .rxPoll s = .next (succeeded { s with res := { s.res with r0 := 0xFF000000#32, r1 := 0#32 } })

/-- RX_POLL consumes a pending frame whatever the outcome, leaving RX_BUF and RX_LEN; RX_LEN above RX_BUF_SIZE ends with
BOUNDS and RX_LEN (45_interface.md R234). -/
def Obligations.PollConsumesTheFrame : Prop :=
  ∀ s : State, s.rxPending = true →
    (∃ t, exec .rxPoll s = .next t ∧ t.rxPending = false ∧ t.rxBuf = s.rxBuf ∧ t.rxLen = s.rxLen)
    ∧ (s.params.rxBufSize.toNat < s.rxLen.toNat →
        exec .rxPoll s = .next (errored 0x02#8 (s.rxLen.setWidth 32) { s with rxPending := false }))

/-- RX_POLL on an Ethernet frame that a filter stops: WRONG_LENGTH for a short frame; DST_MAC; VLAN_MISMATCH or
UNSUPPORTED_ETHERTYPE; L3_IGNORED for IPv6 and other classes; with no port request and no byte changed
(45_interface.md R235, R237; 42_vlan.md R171). -/
def Obligations.PollFiltersFrames : Prop :=
  ∀ s : State, EthernetFramePending s →
    let w := rxFrame s
    let dropped := fun reason : Byte => ∃ r : Results,
      exec .rxPoll s = .next (succeeded { s with rxPending := false, res := r })
        ∧ OutcomeReport 1#4 reason 0#8 0xFF#8 0 0#16 s.res r
    (∀ need, EthTooShort w need → exec .rxPoll s
      = .next (errored 0x03#8 (word32 need) { s with rxPending := false }))
    ∧ ∀ k l3 hdr e v0 v1, EthShape w k l3 hdr e v0 v1 →
        (¬ DstMatches s w → dropped 0x01#8)
        ∧ (DstMatches s w → vlanReason s.vlanCfg k v0 v1 ≠ 0x00#8 → dropped (vlanReason s.vlanCfg k v0 v1))
        ∧ (DstMatches s w → vlanReason s.vlanCfg k v0 v1 = 0x00#8 → (l3 = 2#2 ∨ l3 = 3#2) → dropped 0x04#8)

/-- RX_POLL on an accepted ARP frame that is not well formed: the errors of the poll's ARP checks in their order, with no port
request (45_interface.md R238, 43_arp.md R181). -/
def Obligations.PollRejectsBadArp : Prop :=
  ∀ (s : State) (hdr : Nat), EthernetFramePending s → FrameAccepted s 1#2 hdr →
    let p := (rxFrame s).drop hdr
    let hl := (byteAt p 4).toNat
    let pl := (byteAt p 5).toNat
    let fails := fun (code : Byte) (info : Word) =>
      exec .rxPoll s = .next (errored code info { s with rxPending := false })
    if p.length < 8 then fails 0x04#8 8#32
    else if p.length < 8 + 2 * hl + 2 * pl then fails 0x05#8 (word32 (8 + 2 * hl + 2 * pl))
    else if rd16 p 0 ≠ 1#16 then fails 0x0B#8 ((rd16 p 0).setWidth 32)
    else if hl ≠ 6 then fails 0x06#8 (word32 hl)
    else if rd16 p 2 ≠ 0x0800#16 then fails 0x0B#8 (0x00010000#32 ||| (rd16 p 2).setWidth 32)
    else if pl ≠ 4 then fails 0x07#8 (word32 pl)
    else ArpWellFormed p

/-- RX_POLL learns from every well-formed ARP packet before it looks at the target: for a target it does not own it makes the one
ArpLearn request, of SPA and SHA, sends no reply, and drops with ARP_NO_SPACE if the port answers so and else with ARP_NOT_FOR_US
(45_interface.md R239, R243). -/
def Obligations.PollLearnsBeforeFiltering : Prop :=
  ∀ (s : State) (hdr : Nat), EthernetFramePending s → FrameAccepted s 1#2 hdr →
    let p := (rxFrame s).drop hdr
    let learned := Config.arpLearnAnswer s.draws
    ArpWellFormed p → (∀ e ∈ s.addrs, e.addr ≠ rd32 p 24) →
    ∃ r : Results, exec .rxPoll s = .next (succeeded { s with
        rxPending := false, res := r, draws := s.draws + 1,
        history := s.history ++ [.arpLearn (rd32 p 14) (rd48 p 8) learned] })
      ∧ OutcomeReport 1#4 (if learned = .noSpace then 0x06#8 else 0x05#8) 0#8 0xFF#8 0 0#16 s.res r

/-- RX_POLL on a well-formed ARP packet for an owned target: it learns; with no space for it the frame is dropped; else the block writes
the reply to TX_BUF from byte 0 on and its length to TX_LEN, sends it, and reports ARP_REPLY with that length, or, if the Send port fails,
ends with DEVICE_SEND while the reply, TX_LEN and the requests survive; no other byte changes (45_interface.md R239 to R241, R244;
42_vlan.md R173). It holds for each answer of the two ports. -/
def Obligations.PollAnswersArp : Prop :=
  ∀ (s : State) (hdr : Nat), EthernetFramePending s → FrameAccepted s 1#2 hdr →
    let p := (rxFrame s).drop hdr
    let f := replyBytes s p
    ArpWellFormed p → (∃ e ∈ s.addrs, e.addr = rd32 p 24) →
    match Config.arpLearnAnswer s.draws with
    | .noSpace =>
      ∃ r : Results, exec .rxPoll s = .next (succeeded { s with
          rxPending := false, res := r, draws := s.draws + 1,
          history := s.history ++ [.arpLearn (rd32 p 14) (rd48 p 8) .noSpace] })
        ∧ OutcomeReport 1#4 0x06#8 0#8 0xFF#8 0 0#16 s.res r
    | .ok =>
      ∃ (m : Memory) (r : Results),
        let sent := Config.sendAnswer (s.draws + 1)
        let t : State := { s with
          rxPending := false, txBuf := m, txLen := BitVec.ofNat 16 f.length, res := r, draws := s.draws + 2,
          history := s.history ++ [.arpLearn (rd32 p 14) (rd48 p 8) .ok, .send f sent] }
        (∀ j, t.readByte .tx j = if j < f.length then f.getD j 0#8 else s.readByte .tx j)
        ∧ match sent with
          | .ok => exec .rxPoll s = .next (succeeded t) ∧ OutcomeReport 2#4 0x00#8 0#8 0xFF#8 f.length 0#16 s.res r
          | .fail => exec .rxPoll s = .next (errored 0x0F#8 0#32 t) ∧ r = s.res

/-- The port requests of one RX_POLL: ArpLearn alone, for an ARP drop, ARP_NO_SPACE or ARP_NOT_FOR_US as the port answered; ArpLearn
then Send, for an ARP reply or a DEVICE_SEND error; Deliver alone, for a delivered payload; nothing for every other outcome and
error, so no frame is dropped for an ARP reason without a learn request (45_interface.md R242; the recorded answers are the
model's, log 9). -/
def Obligations.PollPortOrder : Prop :=
  ∀ s t : State, exec .rxPoll s = .next t →
    (∃ ip mac ans, t.history = s.history ++ [.arpLearn ip mac ans] ∧ t.status.err = false
      ∧ t.res.r0.extractLsb' 0 4 = 1#4 ∧ t.res.r0.extractLsb' 8 8 = (if ans = .noSpace then 0x06#8 else 0x05#8))
    ∨ (∃ ip mac f ans, t.history = s.history ++ [.arpLearn ip mac .ok, .send f ans]
      ∧ ((ans = .ok ∧ t.status.err = false ∧ t.res.r0.extractLsb' 0 4 = 2#4)
        ∨ (ans = .fail ∧ t.status.err = true ∧ t.status.errCode = 0x0F#8)))
    ∨ (∃ proto bs, t.history = s.history ++ [.deliver proto bs] ∧ t.status.err = false
      ∧ t.res.r0.extractLsb' 0 4 = 3#4 ∧ t.res.r0.extractLsb' 16 8 = proto)
    ∨ (t.history = s.history ∧ ((t.status.err = true ∧ t.status.errCode ≠ 0x0F#8)
      ∨ (t.status.err = false ∧ t.res.r0.extractLsb' 0 4 ≠ 2#4 ∧ t.res.r0.extractLsb' 0 4 ≠ 3#4
        ∧ ¬ (t.res.r0.extractLsb' 0 4 = 1#4
          ∧ (t.res.r0.extractLsb' 8 8 = 0x05#8 ∨ t.res.r0.extractLsb' 8 8 = 0x06#8)))))

/-- RX_POLL on an IPv4 packet, an accepted Ethernet frame's payload or a packet of the IP medium with version 4, does what IPV4_INPUT
on the same bytes does, and consumes the frame; on the IP medium an empty packet ends with TRUNCATED and 1, and another version with
UNKNOWN_IP_VERSION and the version nibble (45_interface.md R236, R237). -/
def Obligations.PollRunsIpv4Input : Prop :=
  (∀ (s u : State) (hdr : Nat),
      ((EthernetFramePending s ∧ FrameAccepted s 0#2 hdr)
        ∨ (IpPacketPending s ∧ hdr = 0 ∧ 1 ≤ s.rxLen.toNat ∧ (s.readByte .rx 0).extractLsb' 4 4 = 4#4)) →
      exec (.ipv4Input .rx) { s with
        rxPending := false, args := { s.args with a0 := word32 hdr, a1 := word32 (s.rxLen.toNat - hdr) } } = .next u →
      exec .rxPoll s = .next { u with args := s.args })
    ∧ ∀ s : State, IpPacketPending s →
      let v := (s.readByte .rx 0).extractLsb' 4 4
      (s.rxLen = 0#16 → exec .rxPoll s = .next (errored 0x04#8 1#32 { s with rxPending := false }))
      ∧ (s.rxLen ≠ 0#16 → v ≠ 4#4 → exec .rxPoll s
          = .next (errored 0x09#8 (v.setWidth 32) { s with rxPending := false }))

/-- The reply parses back: when RX_POLL answers an ARP packet for an owned target, then, whatever the Send port answers, ETH_PARSE of
TX_BUF[0 .. TX_LEN) reports ARP, the tags VLAN_CFG says, the interface's own MAC as source and the learned MAC as destination, and
ARP_PARSE of the 28 bytes behind the header reports a Reply from the own MAC and the target address to the learned addresses; if the
ArpLearn port has no space, nothing is written (45_interface.md R240). -/
def Obligations.ReplyParsesBack : Prop :=
  ∀ (s : State) (hdr : Nat) (a : Args), s.params.wf = true → EthernetFramePending s → FrameAccepted s 1#2 hdr →
    let p := (rxFrame s).drop hdr
    let tags : Nat := if s.vlanCfg.txTag0 = true then (if s.vlanCfg.txTag1 = true then 2 else 1) else 0
    let replyHdr := 14 + 4 * tags
    ArpWellFormed p → (∃ e ∈ s.addrs, e.addr = rd32 p 24) →
    ∃ t, exec .rxPoll s = .next t
      ∧ match Config.arpLearnAnswer s.draws with
        | .noSpace => t.txBuf = s.txBuf ∧ t.txLen = s.txLen
        | .ok =>
          (∃ v, exec (.ethParse .tx) { t with args := { a with a0 := 0#32, a1 := t.txLen.setWidth 32 } } = .next v
            ∧ v.status.err = false ∧ v.res.r0.extractLsb' 0 3 = BitVec.ofNat 3 tags ∧ v.res.r0.extractLsb' 4 2 = 1#2
            ∧ (v.res.r0.extractLsb' 8 8).toNat = replyHdr
            ∧ (1 ≤ tags → v.res.r1.extractLsb' 0 12 = s.vlanCfg.vid0)
            ∧ (tags = 2 → v.res.r1.extractLsb' 16 12 = s.vlanCfg.vid1)
            ∧ v.res.r2 ++ v.res.r3.extractLsb' 0 16 = rd48 p 8 ∧ v.res.r4 ++ v.res.r5.extractLsb' 0 16 = s.macHi ++ s.macLo)
          ∧ ∃ v, exec (.arpParse .tx) { t with args := { a with a0 := word32 replyHdr, a1 := 28#32 } } = .next v
            ∧ v.status.err = false ∧ v.res.r0 = 0x08000001#32 ∧ v.res.r1 = 0x00020406#32
            ∧ v.res.r2 ++ v.res.r3.extractLsb' 0 16 = s.macHi ++ s.macLo ∧ v.res.r4 = rd32 p 24
            ∧ v.res.r5 ++ v.res.r6.extractLsb' 0 16 = rd48 p 8 ∧ v.res.r7 = rd32 p 14
end

