-- ==== Sys2Proof/Laws/Bits.lean ====
section
/-!
SUPPORT. Fields of a concatenation, and the fields of an outcome word.
-/

namespace Sys2Proof.Machine

open Sys2Proof

/-- A field that lies in the high part of a concatenation. -/
theorem extract_high {m n : Nat} (a : BitVec m) (b : BitVec n) {k : Nat} (len : Nat) (h : n ≤ k) :
    (a ++ b).extractLsb' k len = a.extractLsb' (k - n) len := by
  apply BitVec.eq_of_getLsbD_eq
  intro i hi
  simp only [BitVec.getLsbD_extractLsb', BitVec.getLsbD_append, hi, decide_true, Bool.true_and]
  rw [if_neg (by omega), show k + i - n = k - n + i by omega]

/-- A field that lies in the low part of a concatenation. -/
theorem extract_low {m n : Nat} (a : BitVec m) (b : BitVec n) {k len : Nat} (h : k + len ≤ n) :
    (a ++ b).extractLsb' k len = b.extractLsb' k len := by
  apply BitVec.eq_of_getLsbD_eq
  intro i hi
  simp only [BitVec.getLsbD_extractLsb', BitVec.getLsbD_append, hi, decide_true, Bool.true_and]
  rw [if_pos (by omega)]

/-- The field that is the whole low part of a concatenation. -/
theorem extract_right {m n : Nat} (a : BitVec m) (b : BitVec n) : (a ++ b).extractLsb' 0 n = b := by
  rw [extract_low a b (by omega), BitVec.extractLsb'_eq_self]

/-- The field that is the whole high part of a concatenation. -/
theorem extract_left {m n : Nat} (a : BitVec m) (b : BitVec n) : (a ++ b).extractLsb' n m = a := by
  rw [extract_high a b m (Nat.le_refl n), Nat.sub_self, BitVec.extractLsb'_eq_self]

/-! ### RES0 and RES1 of an outcome (30_encoding.md R96) -/

@[simp] theorem res0_outcome (o : RxOutcome) : o.res0.extractLsb' 0 4 = o.outcome.toBits := by
  rw [RxOutcome.res0, extract_right]

@[simp] theorem res0_zero (o : RxOutcome) : o.res0.extractLsb' 4 4 = 0#4 := by
  rw [RxOutcome.res0, extract_high _ _ _ (by omega), extract_right]

@[simp] theorem res0_reason (o : RxOutcome) : o.res0.extractLsb' 8 8 = reasonByte o.reason := by
  rw [RxOutcome.res0, extract_high _ _ _ (by omega), extract_high _ _ _ (by omega), extract_right]

@[simp] theorem res0_proto (o : RxOutcome) : o.res0.extractLsb' 16 8 = o.proto := by
  rw [RxOutcome.res0, extract_high _ _ _ (by omega), extract_high _ _ _ (by omega), extract_high _ _ _ (by omega),
    extract_right]

@[simp] theorem res0_slot (o : RxOutcome) : o.res0.extractLsb' 24 8 = slotByte o.slot := by
  rw [RxOutcome.res0, extract_high _ _ _ (by omega), extract_high _ _ _ (by omega), extract_high _ _ _ (by omega),
    extract_left]

@[simp] theorem res1_len (o : RxOutcome) : o.res1.extractLsb' 0 16 = BitVec.ofNat 16 o.len := by
  rw [RxOutcome.res1, extract_right]

@[simp] theorem res1_ident (o : RxOutcome) : o.res1.extractLsb' 16 16 = o.ident := by
  rw [RxOutcome.res1, extract_left]

@[simp] theorem putOutcome_r0 (s : State) (o : RxOutcome) : (s.putOutcome o).res.r0 = o.res0 := rfl

@[simp] theorem putOutcome_r1 (s : State) (o : RxOutcome) : (s.putOutcome o).res.r1 = o.res1 := rfl

end Sys2Proof.Machine
end

