-- ==== Sys2Proof/Laws/State.lean ====
section
/-!
SUPPORT. One lemma per field per update of the state, so that no later proof unfolds a record update.
-/

namespace Sys2Proof.Machine

open Sys2Proof

/-! ### Successful completion (60_exceptions.md R260) -/

@[simp] theorem complete_params (s : State) : (complete s).params = s.params := rfl

@[simp] theorem complete_status (s : State) : (complete s).status = { busy := false, err := false, errCode := 0#8 } := rfl

@[simp] theorem complete_errInfo (s : State) : (complete s).errInfo = 0#32 := rfl

@[simp] theorem complete_ctrl (s : State) : (complete s).ctrl = s.ctrl := rfl

@[simp] theorem complete_args (s : State) : (complete s).args = s.args := rfl

@[simp] theorem complete_res (s : State) : (complete s).res = s.res := rfl

@[simp] theorem complete_csumAcc (s : State) : (complete s).csumAcc = s.csumAcc := rfl

@[simp] theorem complete_macHi (s : State) : (complete s).macHi = s.macHi := rfl

@[simp] theorem complete_macLo (s : State) : (complete s).macLo = s.macLo := rfl

@[simp] theorem complete_vlanCfg (s : State) : (complete s).vlanCfg = s.vlanCfg := rfl

@[simp] theorem complete_rxPending (s : State) : (complete s).rxPending = s.rxPending := rfl

@[simp] theorem complete_rxLen (s : State) : (complete s).rxLen = s.rxLen := rfl

@[simp] theorem complete_txLen (s : State) : (complete s).txLen = s.txLen := rfl

@[simp] theorem complete_addrs (s : State) : (complete s).addrs = s.addrs := rfl

@[simp] theorem complete_slots (s : State) : (complete s).slots = s.slots := rfl

@[simp] theorem complete_rxBuf (s : State) : (complete s).rxBuf = s.rxBuf := rfl

@[simp] theorem complete_txBuf (s : State) : (complete s).txBuf = s.txBuf := rfl

@[simp] theorem complete_history (s : State) : (complete s).history = s.history := rfl

@[simp] theorem complete_epoch (s : State) : (complete s).epoch = s.epoch := rfl

@[simp] theorem complete_draws (s : State) : (complete s).draws = s.draws := rfl

@[simp] theorem complete_busData (s : State) : (complete s).busData = s.busData := rfl

@[simp] theorem complete_inbox (s : State) : (complete s).inbox = s.inbox := rfl

/-! ### Taking an error (60_exceptions.md R261) -/

@[simp] theorem raiseErr_params (e : Err) (s : State) : (raiseErr e s).params = s.params := rfl

@[simp] theorem raiseErr_status (e : Err) (s : State) : (raiseErr e s).status = { busy := false, err := true, errCode := e.code.toByte } := rfl

@[simp] theorem raiseErr_errInfo (e : Err) (s : State) : (raiseErr e s).errInfo = e.info := rfl

@[simp] theorem raiseErr_ctrl (e : Err) (s : State) : (raiseErr e s).ctrl = s.ctrl := rfl

@[simp] theorem raiseErr_args (e : Err) (s : State) : (raiseErr e s).args = s.args := rfl

@[simp] theorem raiseErr_res (e : Err) (s : State) : (raiseErr e s).res = s.res := rfl

@[simp] theorem raiseErr_csumAcc (e : Err) (s : State) : (raiseErr e s).csumAcc = s.csumAcc := rfl

@[simp] theorem raiseErr_macHi (e : Err) (s : State) : (raiseErr e s).macHi = s.macHi := rfl

@[simp] theorem raiseErr_macLo (e : Err) (s : State) : (raiseErr e s).macLo = s.macLo := rfl

@[simp] theorem raiseErr_vlanCfg (e : Err) (s : State) : (raiseErr e s).vlanCfg = s.vlanCfg := rfl

@[simp] theorem raiseErr_rxPending (e : Err) (s : State) : (raiseErr e s).rxPending = s.rxPending := rfl

@[simp] theorem raiseErr_rxLen (e : Err) (s : State) : (raiseErr e s).rxLen = s.rxLen := rfl

@[simp] theorem raiseErr_txLen (e : Err) (s : State) : (raiseErr e s).txLen = s.txLen := rfl

@[simp] theorem raiseErr_addrs (e : Err) (s : State) : (raiseErr e s).addrs = s.addrs := rfl

@[simp] theorem raiseErr_slots (e : Err) (s : State) : (raiseErr e s).slots = s.slots := rfl

@[simp] theorem raiseErr_rxBuf (e : Err) (s : State) : (raiseErr e s).rxBuf = s.rxBuf := rfl

@[simp] theorem raiseErr_txBuf (e : Err) (s : State) : (raiseErr e s).txBuf = s.txBuf := rfl

@[simp] theorem raiseErr_history (e : Err) (s : State) : (raiseErr e s).history = s.history := rfl

@[simp] theorem raiseErr_epoch (e : Err) (s : State) : (raiseErr e s).epoch = s.epoch := rfl

@[simp] theorem raiseErr_draws (e : Err) (s : State) : (raiseErr e s).draws = s.draws := rfl

@[simp] theorem raiseErr_busData (e : Err) (s : State) : (raiseErr e s).busData = s.busData := rfl

@[simp] theorem raiseErr_inbox (e : Err) (s : State) : (raiseErr e s).inbox = s.inbox := rfl

/-! ### Writing an outcome (30_encoding.md R96) -/

@[simp] theorem putOutcome_params (s : State) (o : RxOutcome) : (s.putOutcome o).params = s.params := rfl

@[simp] theorem putOutcome_status (s : State) (o : RxOutcome) : (s.putOutcome o).status = s.status := rfl

@[simp] theorem putOutcome_errInfo (s : State) (o : RxOutcome) : (s.putOutcome o).errInfo = s.errInfo := rfl

@[simp] theorem putOutcome_ctrl (s : State) (o : RxOutcome) : (s.putOutcome o).ctrl = s.ctrl := rfl

@[simp] theorem putOutcome_args (s : State) (o : RxOutcome) : (s.putOutcome o).args = s.args := rfl

@[simp] theorem putOutcome_res (s : State) (o : RxOutcome) : (s.putOutcome o).res = { s.res with r0 := o.res0, r1 := o.res1 } := rfl

@[simp] theorem putOutcome_csumAcc (s : State) (o : RxOutcome) : (s.putOutcome o).csumAcc = s.csumAcc := rfl

@[simp] theorem putOutcome_macHi (s : State) (o : RxOutcome) : (s.putOutcome o).macHi = s.macHi := rfl

@[simp] theorem putOutcome_macLo (s : State) (o : RxOutcome) : (s.putOutcome o).macLo = s.macLo := rfl

@[simp] theorem putOutcome_vlanCfg (s : State) (o : RxOutcome) : (s.putOutcome o).vlanCfg = s.vlanCfg := rfl

@[simp] theorem putOutcome_rxPending (s : State) (o : RxOutcome) : (s.putOutcome o).rxPending = s.rxPending := rfl

@[simp] theorem putOutcome_rxLen (s : State) (o : RxOutcome) : (s.putOutcome o).rxLen = s.rxLen := rfl

@[simp] theorem putOutcome_txLen (s : State) (o : RxOutcome) : (s.putOutcome o).txLen = s.txLen := rfl

@[simp] theorem putOutcome_addrs (s : State) (o : RxOutcome) : (s.putOutcome o).addrs = s.addrs := rfl

@[simp] theorem putOutcome_slots (s : State) (o : RxOutcome) : (s.putOutcome o).slots = s.slots := rfl

@[simp] theorem putOutcome_rxBuf (s : State) (o : RxOutcome) : (s.putOutcome o).rxBuf = s.rxBuf := rfl

@[simp] theorem putOutcome_txBuf (s : State) (o : RxOutcome) : (s.putOutcome o).txBuf = s.txBuf := rfl

@[simp] theorem putOutcome_history (s : State) (o : RxOutcome) : (s.putOutcome o).history = s.history := rfl

@[simp] theorem putOutcome_epoch (s : State) (o : RxOutcome) : (s.putOutcome o).epoch = s.epoch := rfl

@[simp] theorem putOutcome_draws (s : State) (o : RxOutcome) : (s.putOutcome o).draws = s.draws := rfl

@[simp] theorem putOutcome_busData (s : State) (o : RxOutcome) : (s.putOutcome o).busData = s.busData := rfl

@[simp] theorem putOutcome_inbox (s : State) (o : RxOutcome) : (s.putOutcome o).inbox = s.inbox := rfl

/-! ### A Deliver request (10_state.md R44) -/

@[simp] theorem emitDeliver_params (p : Byte) (bs : List Byte) (s : State) : (emitDeliver p bs s).params = s.params := rfl

@[simp] theorem emitDeliver_status (p : Byte) (bs : List Byte) (s : State) : (emitDeliver p bs s).status = s.status := rfl

@[simp] theorem emitDeliver_errInfo (p : Byte) (bs : List Byte) (s : State) : (emitDeliver p bs s).errInfo = s.errInfo := rfl

@[simp] theorem emitDeliver_ctrl (p : Byte) (bs : List Byte) (s : State) : (emitDeliver p bs s).ctrl = s.ctrl := rfl

@[simp] theorem emitDeliver_args (p : Byte) (bs : List Byte) (s : State) : (emitDeliver p bs s).args = s.args := rfl

@[simp] theorem emitDeliver_res (p : Byte) (bs : List Byte) (s : State) : (emitDeliver p bs s).res = s.res := rfl

@[simp] theorem emitDeliver_csumAcc (p : Byte) (bs : List Byte) (s : State) : (emitDeliver p bs s).csumAcc = s.csumAcc := rfl

@[simp] theorem emitDeliver_macHi (p : Byte) (bs : List Byte) (s : State) : (emitDeliver p bs s).macHi = s.macHi := rfl

@[simp] theorem emitDeliver_macLo (p : Byte) (bs : List Byte) (s : State) : (emitDeliver p bs s).macLo = s.macLo := rfl

@[simp] theorem emitDeliver_vlanCfg (p : Byte) (bs : List Byte) (s : State) : (emitDeliver p bs s).vlanCfg = s.vlanCfg := rfl

@[simp] theorem emitDeliver_rxPending (p : Byte) (bs : List Byte) (s : State) : (emitDeliver p bs s).rxPending = s.rxPending := rfl

@[simp] theorem emitDeliver_rxLen (p : Byte) (bs : List Byte) (s : State) : (emitDeliver p bs s).rxLen = s.rxLen := rfl

@[simp] theorem emitDeliver_txLen (p : Byte) (bs : List Byte) (s : State) : (emitDeliver p bs s).txLen = s.txLen := rfl

@[simp] theorem emitDeliver_addrs (p : Byte) (bs : List Byte) (s : State) : (emitDeliver p bs s).addrs = s.addrs := rfl

@[simp] theorem emitDeliver_slots (p : Byte) (bs : List Byte) (s : State) : (emitDeliver p bs s).slots = s.slots := rfl

@[simp] theorem emitDeliver_rxBuf (p : Byte) (bs : List Byte) (s : State) : (emitDeliver p bs s).rxBuf = s.rxBuf := rfl

@[simp] theorem emitDeliver_txBuf (p : Byte) (bs : List Byte) (s : State) : (emitDeliver p bs s).txBuf = s.txBuf := rfl

@[simp] theorem emitDeliver_history (p : Byte) (bs : List Byte) (s : State) : (emitDeliver p bs s).history = s.history ++ [.deliver p bs] := rfl

@[simp] theorem emitDeliver_epoch (p : Byte) (bs : List Byte) (s : State) : (emitDeliver p bs s).epoch = s.epoch := rfl

@[simp] theorem emitDeliver_draws (p : Byte) (bs : List Byte) (s : State) : (emitDeliver p bs s).draws = s.draws := rfl

@[simp] theorem emitDeliver_busData (p : Byte) (bs : List Byte) (s : State) : (emitDeliver p bs s).busData = s.busData := rfl

@[simp] theorem emitDeliver_inbox (p : Byte) (bs : List Byte) (s : State) : (emitDeliver p bs s).inbox = s.inbox := rfl

/-! ### An ArpLearn request (10_state.md R44) -/

@[simp] theorem emitArpLearn_params (ip : IpAddr) (mac : Mac) (a : ArpAnswer) (s : State) : (emitArpLearn ip mac a s).params = s.params := rfl

@[simp] theorem emitArpLearn_status (ip : IpAddr) (mac : Mac) (a : ArpAnswer) (s : State) : (emitArpLearn ip mac a s).status = s.status := rfl

@[simp] theorem emitArpLearn_errInfo (ip : IpAddr) (mac : Mac) (a : ArpAnswer) (s : State) : (emitArpLearn ip mac a s).errInfo = s.errInfo := rfl

@[simp] theorem emitArpLearn_ctrl (ip : IpAddr) (mac : Mac) (a : ArpAnswer) (s : State) : (emitArpLearn ip mac a s).ctrl = s.ctrl := rfl

@[simp] theorem emitArpLearn_args (ip : IpAddr) (mac : Mac) (a : ArpAnswer) (s : State) : (emitArpLearn ip mac a s).args = s.args := rfl

@[simp] theorem emitArpLearn_res (ip : IpAddr) (mac : Mac) (a : ArpAnswer) (s : State) : (emitArpLearn ip mac a s).res = s.res := rfl

@[simp] theorem emitArpLearn_csumAcc (ip : IpAddr) (mac : Mac) (a : ArpAnswer) (s : State) : (emitArpLearn ip mac a s).csumAcc = s.csumAcc := rfl

@[simp] theorem emitArpLearn_macHi (ip : IpAddr) (mac : Mac) (a : ArpAnswer) (s : State) : (emitArpLearn ip mac a s).macHi = s.macHi := rfl

@[simp] theorem emitArpLearn_macLo (ip : IpAddr) (mac : Mac) (a : ArpAnswer) (s : State) : (emitArpLearn ip mac a s).macLo = s.macLo := rfl

@[simp] theorem emitArpLearn_vlanCfg (ip : IpAddr) (mac : Mac) (a : ArpAnswer) (s : State) : (emitArpLearn ip mac a s).vlanCfg = s.vlanCfg := rfl

@[simp] theorem emitArpLearn_rxPending (ip : IpAddr) (mac : Mac) (a : ArpAnswer) (s : State) : (emitArpLearn ip mac a s).rxPending = s.rxPending := rfl

@[simp] theorem emitArpLearn_rxLen (ip : IpAddr) (mac : Mac) (a : ArpAnswer) (s : State) : (emitArpLearn ip mac a s).rxLen = s.rxLen := rfl

@[simp] theorem emitArpLearn_txLen (ip : IpAddr) (mac : Mac) (a : ArpAnswer) (s : State) : (emitArpLearn ip mac a s).txLen = s.txLen := rfl

@[simp] theorem emitArpLearn_addrs (ip : IpAddr) (mac : Mac) (a : ArpAnswer) (s : State) : (emitArpLearn ip mac a s).addrs = s.addrs := rfl

@[simp] theorem emitArpLearn_slots (ip : IpAddr) (mac : Mac) (a : ArpAnswer) (s : State) : (emitArpLearn ip mac a s).slots = s.slots := rfl

@[simp] theorem emitArpLearn_rxBuf (ip : IpAddr) (mac : Mac) (a : ArpAnswer) (s : State) : (emitArpLearn ip mac a s).rxBuf = s.rxBuf := rfl

@[simp] theorem emitArpLearn_txBuf (ip : IpAddr) (mac : Mac) (a : ArpAnswer) (s : State) : (emitArpLearn ip mac a s).txBuf = s.txBuf := rfl

@[simp] theorem emitArpLearn_history (ip : IpAddr) (mac : Mac) (a : ArpAnswer) (s : State) : (emitArpLearn ip mac a s).history = s.history ++ [.arpLearn ip mac a] := rfl

@[simp] theorem emitArpLearn_epoch (ip : IpAddr) (mac : Mac) (a : ArpAnswer) (s : State) : (emitArpLearn ip mac a s).epoch = s.epoch := rfl

@[simp] theorem emitArpLearn_draws (ip : IpAddr) (mac : Mac) (a : ArpAnswer) (s : State) : (emitArpLearn ip mac a s).draws = s.draws + 1 := rfl

@[simp] theorem emitArpLearn_busData (ip : IpAddr) (mac : Mac) (a : ArpAnswer) (s : State) : (emitArpLearn ip mac a s).busData = s.busData := rfl

@[simp] theorem emitArpLearn_inbox (ip : IpAddr) (mac : Mac) (a : ArpAnswer) (s : State) : (emitArpLearn ip mac a s).inbox = s.inbox := rfl

/-! ### A Send request (10_state.md R44) -/

@[simp] theorem emitSend_params (f : List Byte) (a : SendAnswer) (s : State) : (emitSend f a s).params = s.params := rfl

@[simp] theorem emitSend_status (f : List Byte) (a : SendAnswer) (s : State) : (emitSend f a s).status = s.status := rfl

@[simp] theorem emitSend_errInfo (f : List Byte) (a : SendAnswer) (s : State) : (emitSend f a s).errInfo = s.errInfo := rfl

@[simp] theorem emitSend_ctrl (f : List Byte) (a : SendAnswer) (s : State) : (emitSend f a s).ctrl = s.ctrl := rfl

@[simp] theorem emitSend_args (f : List Byte) (a : SendAnswer) (s : State) : (emitSend f a s).args = s.args := rfl

@[simp] theorem emitSend_res (f : List Byte) (a : SendAnswer) (s : State) : (emitSend f a s).res = s.res := rfl

@[simp] theorem emitSend_csumAcc (f : List Byte) (a : SendAnswer) (s : State) : (emitSend f a s).csumAcc = s.csumAcc := rfl

@[simp] theorem emitSend_macHi (f : List Byte) (a : SendAnswer) (s : State) : (emitSend f a s).macHi = s.macHi := rfl

@[simp] theorem emitSend_macLo (f : List Byte) (a : SendAnswer) (s : State) : (emitSend f a s).macLo = s.macLo := rfl

@[simp] theorem emitSend_vlanCfg (f : List Byte) (a : SendAnswer) (s : State) : (emitSend f a s).vlanCfg = s.vlanCfg := rfl

@[simp] theorem emitSend_rxPending (f : List Byte) (a : SendAnswer) (s : State) : (emitSend f a s).rxPending = s.rxPending := rfl

@[simp] theorem emitSend_rxLen (f : List Byte) (a : SendAnswer) (s : State) : (emitSend f a s).rxLen = s.rxLen := rfl

@[simp] theorem emitSend_txLen (f : List Byte) (a : SendAnswer) (s : State) : (emitSend f a s).txLen = s.txLen := rfl

@[simp] theorem emitSend_addrs (f : List Byte) (a : SendAnswer) (s : State) : (emitSend f a s).addrs = s.addrs := rfl

@[simp] theorem emitSend_slots (f : List Byte) (a : SendAnswer) (s : State) : (emitSend f a s).slots = s.slots := rfl

@[simp] theorem emitSend_rxBuf (f : List Byte) (a : SendAnswer) (s : State) : (emitSend f a s).rxBuf = s.rxBuf := rfl

@[simp] theorem emitSend_txBuf (f : List Byte) (a : SendAnswer) (s : State) : (emitSend f a s).txBuf = s.txBuf := rfl

@[simp] theorem emitSend_history (f : List Byte) (a : SendAnswer) (s : State) : (emitSend f a s).history = s.history ++ [.send f a] := rfl

@[simp] theorem emitSend_epoch (f : List Byte) (a : SendAnswer) (s : State) : (emitSend f a s).epoch = s.epoch := rfl

@[simp] theorem emitSend_draws (f : List Byte) (a : SendAnswer) (s : State) : (emitSend f a s).draws = s.draws + 1 := rfl

@[simp] theorem emitSend_busData (f : List Byte) (a : SendAnswer) (s : State) : (emitSend f a s).busData = s.busData := rfl

@[simp] theorem emitSend_inbox (f : List Byte) (a : SendAnswer) (s : State) : (emitSend f a s).inbox = s.inbox := rfl

/-! ### Reporting IP_COUNT (30_encoding.md R97) -/

@[simp] theorem putCount_params (s : State) : (putCount s).params = s.params := rfl

@[simp] theorem putCount_status (s : State) : (putCount s).status = s.status := rfl

@[simp] theorem putCount_errInfo (s : State) : (putCount s).errInfo = s.errInfo := rfl

@[simp] theorem putCount_ctrl (s : State) : (putCount s).ctrl = s.ctrl := rfl

@[simp] theorem putCount_args (s : State) : (putCount s).args = s.args := rfl

@[simp] theorem putCount_res (s : State) : (putCount s).res = { s.res with r0 := word32 s.addrs.length } := rfl

@[simp] theorem putCount_csumAcc (s : State) : (putCount s).csumAcc = s.csumAcc := rfl

@[simp] theorem putCount_macHi (s : State) : (putCount s).macHi = s.macHi := rfl

@[simp] theorem putCount_macLo (s : State) : (putCount s).macLo = s.macLo := rfl

@[simp] theorem putCount_vlanCfg (s : State) : (putCount s).vlanCfg = s.vlanCfg := rfl

@[simp] theorem putCount_rxPending (s : State) : (putCount s).rxPending = s.rxPending := rfl

@[simp] theorem putCount_rxLen (s : State) : (putCount s).rxLen = s.rxLen := rfl

@[simp] theorem putCount_txLen (s : State) : (putCount s).txLen = s.txLen := rfl

@[simp] theorem putCount_addrs (s : State) : (putCount s).addrs = s.addrs := rfl

@[simp] theorem putCount_slots (s : State) : (putCount s).slots = s.slots := rfl

@[simp] theorem putCount_rxBuf (s : State) : (putCount s).rxBuf = s.rxBuf := rfl

@[simp] theorem putCount_txBuf (s : State) : (putCount s).txBuf = s.txBuf := rfl

@[simp] theorem putCount_history (s : State) : (putCount s).history = s.history := rfl

@[simp] theorem putCount_epoch (s : State) : (putCount s).epoch = s.epoch := rfl

@[simp] theorem putCount_draws (s : State) : (putCount s).draws = s.draws := rfl

@[simp] theorem putCount_busData (s : State) : (putCount s).busData = s.busData := rfl

@[simp] theorem putCount_inbox (s : State) : (putCount s).inbox = s.inbox := rfl

/-! ### Replacing a space's contents -/

@[simp] theorem setMem_params (s : State) (sp : Space) (m : Memory) : (s.setMem sp m).params = s.params := by cases sp <;> rfl

@[simp] theorem setMem_status (s : State) (sp : Space) (m : Memory) : (s.setMem sp m).status = s.status := by cases sp <;> rfl

@[simp] theorem setMem_errInfo (s : State) (sp : Space) (m : Memory) : (s.setMem sp m).errInfo = s.errInfo := by cases sp <;> rfl

@[simp] theorem setMem_ctrl (s : State) (sp : Space) (m : Memory) : (s.setMem sp m).ctrl = s.ctrl := by cases sp <;> rfl

@[simp] theorem setMem_args (s : State) (sp : Space) (m : Memory) : (s.setMem sp m).args = s.args := by cases sp <;> rfl

@[simp] theorem setMem_res (s : State) (sp : Space) (m : Memory) : (s.setMem sp m).res = s.res := by cases sp <;> rfl

@[simp] theorem setMem_csumAcc (s : State) (sp : Space) (m : Memory) : (s.setMem sp m).csumAcc = s.csumAcc := by cases sp <;> rfl

@[simp] theorem setMem_macHi (s : State) (sp : Space) (m : Memory) : (s.setMem sp m).macHi = s.macHi := by cases sp <;> rfl

@[simp] theorem setMem_macLo (s : State) (sp : Space) (m : Memory) : (s.setMem sp m).macLo = s.macLo := by cases sp <;> rfl

@[simp] theorem setMem_vlanCfg (s : State) (sp : Space) (m : Memory) : (s.setMem sp m).vlanCfg = s.vlanCfg := by cases sp <;> rfl

@[simp] theorem setMem_rxPending (s : State) (sp : Space) (m : Memory) : (s.setMem sp m).rxPending = s.rxPending := by cases sp <;> rfl

@[simp] theorem setMem_rxLen (s : State) (sp : Space) (m : Memory) : (s.setMem sp m).rxLen = s.rxLen := by cases sp <;> rfl

@[simp] theorem setMem_txLen (s : State) (sp : Space) (m : Memory) : (s.setMem sp m).txLen = s.txLen := by cases sp <;> rfl

@[simp] theorem setMem_addrs (s : State) (sp : Space) (m : Memory) : (s.setMem sp m).addrs = s.addrs := by cases sp <;> rfl

@[simp] theorem setMem_history (s : State) (sp : Space) (m : Memory) : (s.setMem sp m).history = s.history := by cases sp <;> rfl

@[simp] theorem setMem_epoch (s : State) (sp : Space) (m : Memory) : (s.setMem sp m).epoch = s.epoch := by cases sp <;> rfl

@[simp] theorem setMem_draws (s : State) (sp : Space) (m : Memory) : (s.setMem sp m).draws = s.draws := by cases sp <;> rfl

@[simp] theorem setMem_busData (s : State) (sp : Space) (m : Memory) : (s.setMem sp m).busData = s.busData := by cases sp <;> rfl

@[simp] theorem setMem_inbox (s : State) (sp : Space) (m : Memory) : (s.setMem sp m).inbox = s.inbox := by cases sp <;> rfl

/-! ### Writing bytes to a space (20_memory.md R61) -/

@[simp] theorem writeBytes_params (s : State) (sp : Space) (i : Nat) (bs : List Byte) : (s.writeBytes sp i bs).params = s.params := by cases sp <;> rfl

@[simp] theorem writeBytes_status (s : State) (sp : Space) (i : Nat) (bs : List Byte) : (s.writeBytes sp i bs).status = s.status := by cases sp <;> rfl

@[simp] theorem writeBytes_errInfo (s : State) (sp : Space) (i : Nat) (bs : List Byte) : (s.writeBytes sp i bs).errInfo = s.errInfo := by cases sp <;> rfl

@[simp] theorem writeBytes_ctrl (s : State) (sp : Space) (i : Nat) (bs : List Byte) : (s.writeBytes sp i bs).ctrl = s.ctrl := by cases sp <;> rfl

@[simp] theorem writeBytes_args (s : State) (sp : Space) (i : Nat) (bs : List Byte) : (s.writeBytes sp i bs).args = s.args := by cases sp <;> rfl

@[simp] theorem writeBytes_res (s : State) (sp : Space) (i : Nat) (bs : List Byte) : (s.writeBytes sp i bs).res = s.res := by cases sp <;> rfl

@[simp] theorem writeBytes_csumAcc (s : State) (sp : Space) (i : Nat) (bs : List Byte) : (s.writeBytes sp i bs).csumAcc = s.csumAcc := by cases sp <;> rfl

@[simp] theorem writeBytes_macHi (s : State) (sp : Space) (i : Nat) (bs : List Byte) : (s.writeBytes sp i bs).macHi = s.macHi := by cases sp <;> rfl

@[simp] theorem writeBytes_macLo (s : State) (sp : Space) (i : Nat) (bs : List Byte) : (s.writeBytes sp i bs).macLo = s.macLo := by cases sp <;> rfl

@[simp] theorem writeBytes_vlanCfg (s : State) (sp : Space) (i : Nat) (bs : List Byte) : (s.writeBytes sp i bs).vlanCfg = s.vlanCfg := by cases sp <;> rfl

@[simp] theorem writeBytes_rxPending (s : State) (sp : Space) (i : Nat) (bs : List Byte) : (s.writeBytes sp i bs).rxPending = s.rxPending := by cases sp <;> rfl

@[simp] theorem writeBytes_rxLen (s : State) (sp : Space) (i : Nat) (bs : List Byte) : (s.writeBytes sp i bs).rxLen = s.rxLen := by cases sp <;> rfl

@[simp] theorem writeBytes_txLen (s : State) (sp : Space) (i : Nat) (bs : List Byte) : (s.writeBytes sp i bs).txLen = s.txLen := by cases sp <;> rfl

@[simp] theorem writeBytes_addrs (s : State) (sp : Space) (i : Nat) (bs : List Byte) : (s.writeBytes sp i bs).addrs = s.addrs := by cases sp <;> rfl

@[simp] theorem writeBytes_history (s : State) (sp : Space) (i : Nat) (bs : List Byte) : (s.writeBytes sp i bs).history = s.history := by cases sp <;> rfl

@[simp] theorem writeBytes_epoch (s : State) (sp : Space) (i : Nat) (bs : List Byte) : (s.writeBytes sp i bs).epoch = s.epoch := by cases sp <;> rfl

@[simp] theorem writeBytes_draws (s : State) (sp : Space) (i : Nat) (bs : List Byte) : (s.writeBytes sp i bs).draws = s.draws := by cases sp <;> rfl

@[simp] theorem writeBytes_busData (s : State) (sp : Space) (i : Nat) (bs : List Byte) : (s.writeBytes sp i bs).busData = s.busData := by cases sp <;> rfl

@[simp] theorem writeBytes_inbox (s : State) (sp : Space) (i : Nat) (bs : List Byte) : (s.writeBytes sp i bs).inbox = s.inbox := by cases sp <;> rfl

end Sys2Proof.Machine
end

