-- ==== Sys2Proof/Laws/Checksum.lean ====
section
/-!
SUPPORT. The end-around-carry fold as one closed formula (40_checksum.md R130).
-/

namespace Sys2Proof.Machine

open Sys2Proof

/-- Enough rounds of the fold give the residue modulo 0xFFFF in 1..0xFFFF, or 0 for 0. -/
theorem foldRounds_eq (n s : Nat) (h : s ≤ n) : foldRounds n s = if s = 0 then 0 else (s - 1) % 0xFFFF + 1 := by
  induction n generalizing s with
  | zero =>
    obtain rfl : s = 0 := by omega
    rfl
  | succ n ih =>
    simp only [foldRounds]
    split
    · rename_i hs
      rw [ih _ (by omega)]
      split <;> split <;> omega
    · split <;> omega

/-- The one lemma about `fold`: what it is as a number. -/
theorem fold_toNat (s : Nat) : (fold s).toNat = if s = 0 then 0 else (s - 1) % 0xFFFF + 1 := by
  rw [fold, foldRounds_eq s s (Nat.le_refl s), BitVec.toNat_ofNat, Nat.mod_eq_of_lt]
  split
  · omega
  · have := Nat.mod_lt (s - 1) (show 0xFFFF > 0 by omega)
    omega

/-- `ocadd` as a number. -/
theorem ocadd_toNat (a b : Half) :
    (ocadd a b).toNat = if a.toNat + b.toNat = 0 then 0 else (a.toNat + b.toNat - 1) % 0xFFFF + 1 :=
  fold_toNat _

/-- `csum` as a number. -/
theorem csum_toNat (bs : List Byte) :
    (csum bs).toNat = if csumTotal bs = 0 then 0 else (csumTotal bs - 1) % 0xFFFF + 1 := fold_toNat _

end Sys2Proof.Machine
end

