-- ==== Sys2Proof/Laws/Memory.lean ====
section
/-!
SUPPORT. Memory and the byte spaces: a read after a write, and that every operation keeps the canonical form.
-/

namespace Sys2Proof.Machine

open Sys2Proof

/-! ### One memory -/

@[simp] theorem lookup_nil (i : Nat) : Memory.lookup [] i = none := rfl

theorem lookup_cons (k : Nat) (b : Byte) (m : Memory) (i : Nat) :
    Memory.lookup ((k, b) :: m) i = if k = i then some b else Memory.lookup m i := rfl

@[simp] theorem lookup_write_same (m : Memory) (i : Nat) (b : Byte) : (m.write i b).lookup i = some b := by
  induction m with
  | nil => simp [Memory.write, lookup_cons]
  | cons x m ih =>
    obtain ⟨k, c⟩ := x
    simp only [Memory.write]
    split
    · simp [lookup_cons]
    · split
      · simp [lookup_cons]
      · rename_i h1 h2
        rw [lookup_cons, if_neg (fun h => h2 h.symm)]
        exact ih

theorem lookup_write_ne (m : Memory) {i j : Nat} (b : Byte) (h : j ≠ i) :
    (m.write i b).lookup j = m.lookup j := by
  induction m with
  | nil => simp [Memory.write, lookup_cons, Ne.symm h]
  | cons x m ih =>
    obtain ⟨k, c⟩ := x
    simp only [Memory.write]
    split
    · simp [lookup_cons, Ne.symm h]
    · split
      · rename_i h1 h2
        subst h2
        simp [lookup_cons, Ne.symm h]
      · simp only [lookup_cons, ih]

/-- The indices a memory lists, after a write. -/
theorem mem_write {m : Memory} {i : Nat} {b : Byte} {c : Host.Cell} (h : c ∈ m.write i b) : c = (i, b) ∨ c ∈ m := by
  induction m with
  | nil => simpa [Memory.write] using h
  | cons x m ih =>
    obtain ⟨k, d⟩ := x
    simp only [Memory.write] at h
    split at h
    · simpa using h
    · split at h
      · rcases List.mem_cons.1 h with h | h
        · exact .inl h
        · exact .inr (List.mem_cons_of_mem _ h)
      · rcases List.mem_cons.1 h with h | h
        · exact .inr (by simp [h])
        · exact (ih h).imp id (List.mem_cons_of_mem _)

theorem wf_iff (m : Memory) : m.wf = true ↔ m.Pairwise fun x y => x.1 < y.1 := by simp [Memory.wf]

theorem write_wf {m : Memory} (h : m.wf = true) (i : Nat) (b : Byte) : (m.write i b).wf = true := by
  rw [wf_iff] at h ⊢
  induction m with
  | nil => simp [Memory.write]
  | cons x m ih =>
    obtain ⟨k, c⟩ := x
    obtain ⟨hk, hm⟩ := List.pairwise_cons.1 h
    simp only [Memory.write]
    split
    · rename_i hlt
      refine List.pairwise_cons.2 ⟨fun y hy => ?_, h⟩
      rcases List.mem_cons.1 hy with rfl | hy
      · exact hlt
      · exact Nat.lt_trans hlt (hk y hy)
    · split
      · rename_i _ heq
        subst heq
        exact List.pairwise_cons.2 ⟨hk, hm⟩
      · rename_i h1 h2
        refine List.pairwise_cons.2 ⟨fun y hy => ?_, ih hm⟩
        rcases mem_write hy with rfl | hy
        · show k < i
          omega
        · exact hk y hy

theorem writeBytes_wf {m : Memory} (h : m.wf = true) (i : Nat) (bs : List Byte) : (m.writeBytes i bs).wf = true := by
  induction bs generalizing m i with
  | nil => exact h
  | cons b bs ih => exact ih (write_wf h i b) (i + 1)

theorem mem_writeBytes {m : Memory} {i : Nat} {bs : List Byte} {c : Host.Cell} (h : c ∈ m.writeBytes i bs) :
    (i ≤ c.1 ∧ c.1 < i + bs.length) ∨ c ∈ m := by
  induction bs generalizing m i with
  | nil => exact .inr h
  | cons b bs ih =>
    rcases ih h with h | h
    · left
      simp only [List.length_cons]
      omega
    · rcases mem_write h with rfl | h
      · left
        simp
      · exact .inr h

/-- Reading after writing a byte string: inside it, its byte; elsewhere, what was there. -/
theorem lookup_writeBytes (m : Memory) (i j : Nat) (bs : List Byte) :
    (m.writeBytes i bs).lookup j = if i ≤ j ∧ j < i + bs.length then bs[j - i]? else m.lookup j := by
  induction bs generalizing m i with
  | nil =>
    simp [Memory.writeBytes]
  | cons b bs ih =>
    simp only [Memory.writeBytes, ih, List.length_cons]
    by_cases h1 : j = i
    · subst h1
      simp
    · rw [lookup_write_ne _ _ h1]
      by_cases h2 : i ≤ j
      · have h3 : j - i = (j - (i + 1)) + 1 := by omega
        rw [h3, List.getElem?_cons_succ]
        by_cases h4 : j < i + (bs.length + 1)
        · rw [if_pos ⟨by omega, by omega⟩, if_pos ⟨h2, h4⟩]
        · rw [if_neg (by omega), if_neg (by omega)]
      · rw [if_neg (by omega), if_neg (by omega)]

theorem memSound_writeBytes {m : Memory} {size i : Nat} {bs : List Byte} (h : memSound m size)
    (hi : i + bs.length ≤ size) : memSound (m.writeBytes i bs) size := by
  refine ⟨writeBytes_wf h.1 i bs, fun c hc => ?_⟩
  rcases mem_writeBytes hc with hc | hc
  · omega
  · exact h.2 c hc

theorem memSound_nil (size : Nat) : memSound [] size := ⟨rfl, by simp⟩

/-! ### The byte spaces -/

/-- A space exists in a state: RX_BUF and TX_BUF always, slot `k` when there is one. -/
abbrev hasSpace (s : State) : Space → Prop
  | .rx => True
  | .tx => True
  | .slot k => k < s.slots.length

theorem memOf_setMem_same (s : State) (sp : Space) (m : Memory) (h : hasSpace s sp) :
    (s.setMem sp m).memOf sp = m := by
  cases sp with
  | rx => rfl
  | tx => rfl
  | slot k =>
    have hk : k < s.slots.length := h
    simp [State.setMem, State.memOf, setSlotData, List.getElem?_eq_getElem hk]

theorem memOf_setMem_ne (s : State) {sp sp' : Space} (m : Memory) (h : sp' ≠ sp) :
    (s.setMem sp m).memOf sp' = s.memOf sp' := by
  cases sp <;> cases sp' <;> try rfl
  case rx.rx => exact absurd rfl h
  case tx.tx => exact absurd rfl h
  case slot.slot k k' =>
    have hk : k ≠ k' := fun e => h (by rw [e])
    simp [State.setMem, State.memOf, setSlotData, hk]

/-- A byte after a write to its own space: inside the written bytes, the byte written there; elsewhere
unchanged. -/
theorem readByte_writeBytes_same (s : State) (sp : Space) (i j : Nat) (bs : List Byte) (h : hasSpace s sp) :
    (s.writeBytes sp i bs).readByte sp j
      = if hj : i ≤ j ∧ j < i + bs.length then bs[j - i]'(by omega) else s.readByte sp j := by
  simp only [State.readByte, State.writeBytes, memOf_setMem_same _ _ _ h, lookup_writeBytes, setMem_epoch]
  by_cases hj : i ≤ j ∧ j < i + bs.length
  · have hlt : j - i < bs.length := by omega
    simp [hj, hlt]
  · simp [hj]

/-- A byte of another space is unchanged by a write. -/
theorem readByte_writeBytes_ne (s : State) {sp sp' : Space} (i j : Nat) (bs : List Byte) (h : sp' ≠ sp) :
    (s.writeBytes sp i bs).readByte sp' j = s.readByte sp' j := by
  simp [State.readByte, State.writeBytes, memOf_setMem_ne _ _ h]

@[simp] theorem readBytes_length (s : State) (sp : Space) (i n : Nat) : (s.readBytes sp i n).length = n := by
  induction n generalizing i with
  | zero => rfl
  | succ n ih => simp [State.readBytes, ih]

theorem readBytes_getElem (s : State) (sp : Space) (i n k : Nat) (h : k < n) :
    (s.readBytes sp i n)[k]'(by simpa using h) = s.readByte sp (i + k) := by
  induction n generalizing i k with
  | zero => omega
  | succ n ih =>
    cases k with
    | zero => rfl
    | succ k =>
      simp only [State.readBytes, List.getElem_cons_succ]
      rw [ih (i + 1) k (by omega)]
      congr 1
      omega

/-- A byte of a window is the space's byte at the window's base plus the offset (00_scope.md R10). -/
theorem byteAt_readBytes (s : State) (sp : Space) (i n k : Nat) (h : k < n) :
    byteAt (s.readBytes sp i n) k = s.readByte sp (i + k) := by
  have hk : k < (s.readBytes sp i n).length := by simpa using h
  rw [byteAt, List.getD_eq_getElem?_getD, List.getElem?_eq_getElem hk, Option.getD_some, readBytes_getElem _ _ _ _ _ h]

/-- Two states whose spaces read alike give the same byte strings. -/
theorem readBytes_congr {s t : State} {sp : Space} {i n : Nat}
    (h : ∀ j, i ≤ j → j < i + n → t.readByte sp j = s.readByte sp j) : t.readBytes sp i n = s.readBytes sp i n := by
  induction n generalizing i with
  | zero => rfl
  | succ n ih =>
    simp only [State.readBytes]
    rw [h i (Nat.le_refl i) (by omega), ih fun j h1 h2 => h j (by omega) (by omega)]

end Sys2Proof.Machine
end

