-- ==== Sys2Proof/Laws/Commands.lean ====
section
/-!
SUPPORT. For each shared operation, once, everything it can do: windows and completions, the header
classifications and checks, the slots, the receive branch, the table, the poll.
-/

namespace Sys2Proof.Machine

open Sys2Proof

/-! ### Completions and windows -/

theorem complete_eq_succeeded (s : State) : complete s = succeeded s := rfl

theorem raiseErr_eq_errored (e : Err) (s : State) : raiseErr e s = errored e.code.toByte e.info s := rfl

theorem spaceSize_eq_spaceBytes (p : Params) (sp : Space) : spaceSize p sp = spaceBytes p sp := by cases sp <;> rfl

theorem spaceOffset_eq_spaceStart (sp : Space) : spaceOffset sp = spaceStart sp := by cases sp <;> rfl

@[simp] theorem finish_ok (s t : State) : finish s (.ok t) = complete t := rfl

@[simp] theorem finish_error (s : State) (e : Err) : finish s (.error e) = raiseErr e s := rfl

/-- A command with plain errors ends in one of two ways (60_exceptions.md R260, R261). -/
theorem finish_cases {s u : State} {r : Except Err State} (h : finish s r = u) :
    (∃ t, r = .ok t ∧ u = complete t) ∨ ∃ e, r = .error e ∧ u = raiseErr e s := by
  cases r with
  | ok t => exact .inl ⟨t, rfl, h.symm⟩
  | error e => exact .inr ⟨e, rfl, h.symm⟩

theorem winInside_iff (b : Buf) (s : State) :
    winInside b s = true ↔ winBase s + winLen s ≤ spaceSize s.params (spaceOf b) := by simp [winInside]

/-- A window inside its space: the body runs on the window's bytes. -/
theorem withWindow_inside {b : Buf} {s : State} {k : List Byte → Except Err State}
    (h : winBase s + winLen s ≤ spaceSize s.params (spaceOf b)) :
    withWindow b s k = finish s (k (winBytes b s)) := by
  rw [withWindow, if_pos ((winInside_iff b s).2 h)]

/-- A window outside its space: BOUNDS (30_encoding.md R82). -/
theorem withWindow_outside {b : Buf} {s : State} {k : List Byte → Except Err State}
    (h : spaceSize s.params (spaceOf b) < winBase s + winLen s) :
    withWindow b s k = raiseErr (winError s) s := by
  rw [withWindow, if_neg (by rw [winInside_iff]; omega)]

/-- The ways a window command can end. -/
theorem withWindow_cases {b : Buf} {s u : State} {k : List Byte → Except Err State} (h : withWindow b s k = u) :
    (spaceSize s.params (spaceOf b) < winBase s + winLen s ∧ u = raiseErr (winError s) s)
    ∨ (winBase s + winLen s ≤ spaceSize s.params (spaceOf b) ∧
        ((∃ t, k (winBytes b s) = .ok t ∧ u = complete t) ∨ ∃ e, k (winBytes b s) = .error e ∧ u = raiseErr e s)) := by
  by_cases hw : winBase s + winLen s ≤ spaceSize s.params (spaceOf b)
  · rw [withWindow_inside hw] at h
    exact .inr ⟨hw, finish_cases h⟩
  · rw [withWindow_outside (by omega)] at h
    exact .inl ⟨by omega, h.symm⟩

@[simp] theorem winBytes_length (b : Buf) (s : State) : (winBytes b s).length = winLen s := by simp [winBytes]

theorem errCode_range (c : ErrCode) : 1 ≤ c.toByte.toNat ∧ c.toByte.toNat ≤ 15 := by cases c <;> decide

@[simp] theorem wr16_length (v : Half) : (wr16 v).length = 2 := rfl

@[simp] theorem wr32_length (v : Word) : (wr32 v).length = 4 := rfl

@[simp] theorem wr48_length (v : Mac) : (wr48 v).length = 6 := rfl

/-! ### Ethernet -/

/-- Everything `eth_classify` can answer (41_ethernet.md R151). -/
theorem ethClassify_cases (w : List Byte) :
    (w.length < 14 ∧ ethClassify w = .error (wrongLength 14))
    ∨ (14 ≤ w.length ∧ w.length < 18 ∧ rd16 w 12 = tpid ∧ ethClassify w = .error (wrongLength 18))
    ∨ (18 ≤ w.length ∧ w.length < 22 ∧ rd16 w 12 = tpid ∧ rd16 w 16 = tpid ∧ ethClassify w = .error (wrongLength 22))
    ∨ (22 ≤ w.length ∧ rd16 w 12 = tpid ∧ rd16 w 16 = tpid ∧ ethClassify w = .ok
        { pkind := .qinq, l3 := l3class (rd16 w 20), hdr := 22, etype := rd16 w 20,
          vid0 := tciVid (rd16 w 14), vid1 := tciVid (rd16 w 18) })
    ∨ (18 ≤ w.length ∧ rd16 w 12 = tpid ∧ rd16 w 16 ≠ tpid ∧ ethClassify w = .ok
        { pkind := .q, l3 := l3class (rd16 w 16), hdr := 18, etype := rd16 w 16,
          vid0 := tciVid (rd16 w 14), vid1 := 0#12 })
    ∨ (14 ≤ w.length ∧ rd16 w 12 ≠ tpid ∧ ∃ k l, ethClassify w = .ok
        { pkind := k, l3 := l, hdr := 14, etype := rd16 w 12, vid0 := 0#12, vid1 := 0#12 }
        ∧ (((rd16 w 12).toNat < 0x05DC ∧ k = .length ∧ l = .other)
          ∨ (0x05DC ≤ (rd16 w 12).toNat ∧ l3class (rd16 w 12) ≠ .other ∧ k = .l3 ∧ l = l3class (rd16 w 12))
          ∨ (0x05DC ≤ (rd16 w 12).toNat ∧ l3class (rd16 w 12) = .other ∧ k = .unknown ∧ l = .other))) := by
  unfold ethClassify
  by_cases h1 : w.length < 14
  · simp [h1]
  · by_cases h2 : rd16 w 12 = tpid
    · by_cases h3 : w.length < 18
      · simp [h1, h2, h3]; omega
      · by_cases h4 : rd16 w 16 = tpid
        · by_cases h5 : w.length < 22
          · simp [h1, h2, h3, h4, h5]; omega
          · simp [h1, h2, h3, h4, h5]; omega
        · simp [h1, h2, h3, h4]; omega
    · by_cases h3 : (rd16 w 12).toNat < 0x05DC
      · simp [h1, h2, h3]; omega
      · by_cases h4 : l3class (rd16 w 12) = .other
        · simp [h1, h2, h3, h4]; omega
        · simp [h1, h2, h3, h4]; omega

/-- A classified header lies inside its window. -/
theorem ethClassify_hdr_le {w : List Byte} {f : EthInfo} (h : ethClassify w = .ok f) : f.hdr ≤ w.length := by
  rcases ethClassify_cases w with ⟨_, e⟩ | ⟨_, _, _, e⟩ | ⟨_, _, _, _, e⟩ | ⟨hl, _, _, e⟩ | ⟨hl, _, _, e⟩ | ⟨hl, _, k, l, e, _⟩ <;>
    rw [e] at h <;> cases h <;> assumption

/-- Everything a set command with one field can answer (R154, R155). -/
theorem setField_eq (b : Buf) (s : State) (need off : Nat) (bs : List Byte) :
    setField b s need off bs
      = if winLen s < need then .error { code := .bounds, info := word32 need } else .ok (s.winWrite b off bs) := rfl

/-! ### ARP -/

/-- Everything `arp_check_len` can answer (43_arp.md R181). -/
theorem arpCheckLen_cases (w : List Byte) :
    (w.length < 8 ∧ arpCheckLen w = .error { code := .truncated, info := word32 8 })
    ∨ (8 ≤ w.length ∧ w.length < 8 + 2 * (byteAt w 4).toNat + 2 * (byteAt w 5).toNat
        ∧ arpCheckLen w = .error
            { code := .wrongLengthForArpPacket, info := word32 (8 + 2 * (byteAt w 4).toNat + 2 * (byteAt w 5).toNat) })
    ∨ (8 ≤ w.length ∧ 8 + 2 * (byteAt w 4).toNat + 2 * (byteAt w 5).toNat ≤ w.length
        ∧ arpCheckLen w = .ok ((byteAt w 4).toNat, (byteAt w 5).toNat)) := by
  unfold arpCheckLen
  by_cases h1 : w.length < 8
  · simp [h1]
  · by_cases h2 : w.length < 8 + 2 * (byteAt w 4).toNat + 2 * (byteAt w 5).toNat
    · simp [h1, h2]; omega
    · simp [h1, h2]; omega

/-! ### IPv4 -/

/-- Everything `ipv4_check_len` can answer (44_ipv4.md R201). -/
theorem ipv4CheckLen_cases (w : List Byte) :
    (w.length < 20 ∧ ipv4CheckLen w = .error (truncatedErr 20))
    ∨ (20 ≤ w.length ∧ w.length < ipv4HdrLen w ∧ ipv4CheckLen w = .error (truncatedErr (ipv4HdrLen w)))
    ∨ (20 ≤ w.length ∧ ipv4HdrLen w ≤ w.length ∧ ipv4TotalLen w < ipv4HdrLen w
        ∧ ipv4CheckLen w = .error
            { code := .malformed, info := BitVec.ofNat 16 (ipv4HdrLen w) ++ BitVec.ofNat 16 (ipv4TotalLen w) })
    ∨ (20 ≤ w.length ∧ ipv4HdrLen w ≤ ipv4TotalLen w ∧ w.length < ipv4TotalLen w
        ∧ ipv4CheckLen w = .error (truncatedErr (ipv4TotalLen w)))
    ∨ (20 ≤ w.length ∧ ipv4HdrLen w ≤ ipv4TotalLen w ∧ ipv4TotalLen w ≤ w.length
        ∧ ipv4CheckLen w = .ok (ipv4HdrLen w, ipv4TotalLen w)) := by
  unfold ipv4CheckLen
  by_cases h1 : w.length < 20
  · simp [h1]
  · by_cases h2 : w.length < ipv4HdrLen w
    · simp [h1, h2]; omega
    · by_cases h3 : ipv4TotalLen w < ipv4HdrLen w
      · simp [h1, h2, h3]; omega
      · by_cases h4 : w.length < ipv4TotalLen w
        · simp [h1, h2, h3, h4]; omega
        · simp [h1, h2, h3, h4]; omega

/-- A decoded header: where its length fields come from, and that the payload lies inside the window. -/
theorem ipv4Decode_ok {bp : Bool} {w : List Byte} {f : Ipv4Info} (h : ipv4Decode bp w = .ok f) :
    f.hl = ipv4HdrLen w ∧ f.tl = ipv4TotalLen w ∧ f.hl ≤ f.tl ∧ f.tl ≤ w.length ∧ 20 ≤ w.length
      ∧ f.off = fragOff (rd16 w 6) := by
  unfold ipv4Decode at h
  rcases ipv4CheckLen_cases w with ⟨_, e⟩ | ⟨_, _, e⟩ | ⟨_, _, _, e⟩ | ⟨_, _, _, e⟩ | ⟨h1, h2, h3, e⟩ <;>
    rw [e] at h <;> cases h
  exact ⟨rfl, rfl, h2, h3, h1, rfl⟩

@[simp] theorem ipv4Payload_length {bp : Bool} {w : List Byte} {f : Ipv4Info} (h : ipv4Decode bp w = .ok f) :
    (ipv4Payload f w).length = f.tl - f.hl := by
  obtain ⟨_, _, h1, h2, _⟩ := ipv4Decode_ok h
  simp only [ipv4Payload, List.length_take, List.length_drop]
  omega

/-! ### Slots -/

theorem findSlot_some {id : Half} {slots : List Slot} {k n : Nat} (h : findSlot id n slots = some k) :
    ∃ i, k = n + i ∧ ∃ hi : i < slots.length, slots[i].valid = true ∧ slots[i].ident = id
      ∧ ∀ j (hj : j < i), ¬ (slots[j].valid = true ∧ slots[j].ident = id) := by
  induction slots generalizing n with
  | nil => simp [findSlot] at h
  | cons x t ih =>
    simp only [findSlot] at h
    split at h
    · rename_i hx
      cases h
      exact ⟨0, rfl, by simp, hx.1, hx.2, fun j hj => absurd hj (Nat.not_lt_zero j)⟩
    · rename_i hx
      obtain ⟨i, rfl, hi, h1, h2, h3⟩ := ih h
      refine ⟨i + 1, by omega, by simpa using hi, h1, h2, fun j hj => ?_⟩
      cases j with
      | zero => exact hx
      | succ j => exact h3 j (by omega)

theorem findSlot_none {id : Half} {slots : List Slot} {n : Nat} (h : findSlot id n slots = none) :
    ∀ x ∈ slots, ¬ (x.valid = true ∧ x.ident = id) := by
  induction slots generalizing n with
  | nil => simp
  | cons x t ih =>
    simp only [findSlot] at h
    split at h
    · cases h
    · rename_i hx
      intro y hy
      rcases List.mem_cons.1 hy with rfl | hy
      · exact hx
      · exact ih h y hy

theorem findFree_some {slots : List Slot} {k n : Nat} (h : findFree n slots = some k) :
    ∃ i, k = n + i ∧ ∃ hi : i < slots.length, slots[i].valid = false ∧ ∀ j (hj : j < i), slots[j].valid = true := by
  induction slots generalizing n with
  | nil => simp [findFree] at h
  | cons x t ih =>
    simp only [findFree] at h
    split at h
    · rename_i hx
      obtain ⟨i, rfl, hi, h1, h2⟩ := ih h
      refine ⟨i + 1, by omega, by simpa using hi, h1, fun j hj => ?_⟩
      cases j with
      | zero => exact hx
      | succ j => exact h2 j (by omega)
    · rename_i hx
      cases h
      exact ⟨0, rfl, by simp, by simpa using hx, fun j hj => absurd hj (Nat.not_lt_zero j)⟩

theorem findFree_none {slots : List Slot} {n : Nat} (h : findFree n slots = none) : ∀ x ∈ slots, x.valid = true := by
  induction slots generalizing n with
  | nil => simp
  | cons x t ih =>
    simp only [findFree] at h
    split at h
    · rename_i hx
      intro y hy
      rcases List.mem_cons.1 hy with rfl | hy
      · exact hx
      · exact ih h y hy
    · cases h

/-- Everything `slot_for` can answer (44_ipv4.md R209): the lowest slot that holds the ident; else the lowest
free slot, claimed; else NONE. -/
theorem slotFor_cases (id : Half) (slots : List Slot) :
    (∃ k, ∃ hk : k < slots.length, slots[k].valid = true ∧ slots[k].ident = id ∧ slotFor id slots = some (k, slots)
        ∧ ∀ j (hj : j < k), ¬ (slots[j].valid = true ∧ slots[j].ident = id))
    ∨ (∃ k, ∃ hk : k < slots.length, slots[k].valid = false ∧ slotFor id slots = some (k, claimSlot k id slots)
        ∧ (∀ x ∈ slots, ¬ (x.valid = true ∧ x.ident = id)) ∧ ∀ j (hj : j < k), slots[j].valid = true)
    ∨ (slotFor id slots = none ∧ (∀ x ∈ slots, ¬ (x.valid = true ∧ x.ident = id)) ∧ ∀ x ∈ slots, x.valid = true) := by
  unfold slotFor
  cases h : findSlot id 0 slots with
  | some k =>
    obtain ⟨i, rfl, hi, h1, h2, h3⟩ := findSlot_some h
    simp only [Nat.zero_add]
    exact .inl ⟨i, hi, h1, h2, rfl, h3⟩
  | none =>
    have hn := findSlot_none h
    cases hf : findFree 0 slots with
    | some k =>
      obtain ⟨i, rfl, hi, h1, h2⟩ := findFree_some hf
      simp only [Nat.zero_add]
      exact .inr (.inl ⟨i, hi, h1, rfl, hn, h2⟩)
    | none => exact .inr (.inr ⟨rfl, hn, findFree_none hf⟩)

@[simp] theorem claimSlot_length (k : Nat) (id : Half) (slots : List Slot) :
    (claimSlot k id slots).length = slots.length := by simp [claimSlot]

@[simp] theorem freeSlot_length (k : Nat) (slots : List Slot) : (freeSlot k slots).length = slots.length := by
  simp [freeSlot]

@[simp] theorem setSlotData_length (k : Nat) (m : Memory) (slots : List Slot) :
    (setSlotData k m slots).length = slots.length := by simp [setSlotData]

@[simp] theorem flushSlots_length (t : Byte) (n : Nat) (slots : List Slot) :
    (flushSlots t n slots).length = slots.length := by
  induction slots generalizing n with
  | nil => rfl
  | cons x rest ih => simp [flushSlots, ih]

/-- A slot after a flush (R213). -/
theorem flushSlots_getElem (t : Byte) (n : Nat) (slots : List Slot) (i : Nat) (h : i < slots.length) :
    (flushSlots t n slots)[i]'(by simpa using h) = { slots[i] with valid := slots[i].valid && !flushes t (n + i) } := by
  induction slots generalizing n i with
  | nil => simp at h
  | cons x rest ih =>
    cases i with
    | zero => rfl
    | succ i =>
      simp only [flushSlots, List.getElem_cons_succ]
      rw [ih (n + 1) i (by simpa using h), show n + 1 + i = n + (i + 1) by omega]

/-! ### The receive branch -/

/-- Everything `dispatch` can answer (R207): it changes the port history at most. -/
theorem dispatchL4_cases (f : Ipv4Info) (bs : List Byte) (slot : Option Nat) (s : State) :
    (deliverable f.proto = true
      ∧ dispatchL4 f bs slot s = (emitDeliver f.proto bs s, ipv4Out f .delivered none slot bs.length))
    ∨ (deliverable f.proto = false ∧ slot = none
      ∧ dispatchL4 f bs slot s = (s, ipv4Out f .dropped (some .l4Ignored) none 0))
    ∨ (deliverable f.proto = false ∧ ∃ k, slot = some k
      ∧ dispatchL4 f bs slot s = (s, ipv4Out f .dropped (some .l4Ignored) (some k) bs.length)) := by
  unfold dispatchL4
  cases deliverable f.proto with
  | true => exact .inl ⟨rfl, rfl⟩
  | false => cases slot with
    | none => exact .inr (.inl ⟨rfl, rfl, rfl⟩)
    | some k => exact .inr (.inr ⟨rfl, k, rfl, rfl⟩)

/-- The state after a fragment was stored in slot `k`, which was the ident's own or was claimed (R209, R210). -/
def storedFragment (f : Ipv4Info) (p : List Byte) (k : Nat) (slots : List Slot) (s : State) : State :=
  State.writeBytes { s with slots := slots } (.slot k) f.off p

/-- Everything `reassemble` can do (R208). -/
theorem reassemble_cases (f : Ipv4Info) (p : List Byte) (s : State) :
    (s.params.fragBufSize.toNat < f.off + p.length
      ∧ reassemble f p s = (s, ipv4Out f .dropped (some .fragOverflow) none 0))
    ∨ (f.off + p.length ≤ s.params.fragBufSize.toNat ∧ slotFor f.ident s.slots = none
      ∧ reassemble f p s = (s, ipv4Out f .dropped (some .fragNoSlot) none 0))
    ∨ (f.off + p.length ≤ s.params.fragBufSize.toNat ∧ ∃ k slots, slotFor f.ident s.slots = some (k, slots)
      ∧ ((f.mf = true ∧ reassemble f p s = (storedFragment f p k slots s, ipv4Out f .held none (some k) p.length))
        ∨ (f.mf = false
          ∧ reassemble f p s = finishFrag f k (f.off + p.length) (storedFragment f p k slots s)))) := by
  unfold reassemble
  by_cases h1 : s.params.fragBufSize.toNat < f.off + p.length
  · exact .inl ⟨h1, by rw [if_pos h1]⟩
  · rw [if_neg h1]
    refine .inr ?_
    cases h2 : slotFor f.ident s.slots with
    | none => exact .inl ⟨by omega, rfl, rfl⟩
    | some r =>
      obtain ⟨k, slots⟩ := r
      refine .inr ⟨by omega, k, slots, rfl, ?_⟩
      cases h3 : f.mf with
      | true => exact .inl ⟨rfl, rfl⟩
      | false => exact .inr ⟨rfl, rfl⟩

/-- Everything the receive branch can do once the header decoded (R205, R206). -/
theorem ipv4Receive_cases (f : Ipv4Info) (w : List Byte) (s : State) :
    (s.ctrl.ipCsumEn = true ∧ f.csumOk = false
      ∧ ipv4Receive f w s = (s, ipv4Out f .dropped (some .badCsum) none 0))
    ∨ (f.ttl = 0#8 ∧ ipv4Receive f w s = (s, ipv4Out f .dropped (some .ttlZero) none 0))
    ∨ (f.ttl ≠ 0#8 ∧ f.df = true ∧ ipv4Receive f w s = dispatchL4 f (ipv4Payload f w) none s)
    ∨ (f.ttl ≠ 0#8 ∧ f.df = false ∧ ipv4Receive f w s = reassemble f (ipv4Payload f w) s) := by
  unfold ipv4Receive
  by_cases h1 : (s.ctrl.ipCsumEn && !f.csumOk) = true
  · rw [if_pos h1]
    simp at h1
    exact .inl ⟨h1.1, h1.2, rfl⟩
  · rw [if_neg h1]
    by_cases h2 : f.ttl = 0#8
    · exact .inr (.inl ⟨h2, by rw [if_pos h2]⟩)
    · rw [if_neg h2]
      cases h3 : f.df with
      | true => exact .inr (.inr (.inl ⟨h2, rfl, rfl⟩))
      | false => exact .inr (.inr (.inr ⟨h2, rfl, rfl⟩))

/-- `ipv4_input` answers an error of the decoding, or the receive branch (R205). -/
theorem ipv4InputOn_cases (s : State) (w : List Byte) :
    (∃ e, ipv4Decode s.ctrl.csumBypass w = .error e ∧ ipv4InputOn s w = .error e)
    ∨ ∃ f, ipv4Decode s.ctrl.csumBypass w = .ok f ∧ ipv4InputOn s w = .ok (ipv4Receive f w s) := by
  unfold ipv4InputOn
  cases ipv4Decode s.ctrl.csumBypass w with
  | error e => exact .inl ⟨e, rfl, rfl⟩
  | ok f => exact .inr ⟨f, rfl, rfl⟩

/-! ### The address table -/

theorem mem_insertAddr {e x : AddrEntry} {t : List AddrEntry} : x ∈ insertAddr e t ↔ x = e ∨ x ∈ t := by
  induction t with
  | nil => simp [insertAddr]
  | cons y t ih =>
    simp only [insertAddr]
    split
    · simp
    · simp only [List.mem_cons, ih]
      tauto

@[simp] theorem insertAddr_length (e : AddrEntry) (t : List AddrEntry) : (insertAddr e t).length = t.length + 1 := by
  induction t with
  | nil => rfl
  | cons y t ih =>
    simp only [insertAddr]
    split <;> simp [ih]

theorem removeAddr_sublist (a : IpAddr) (p : Byte) (t : List AddrEntry) : (removeAddr a p t).Sublist t := by
  induction t with
  | nil => exact .slnil
  | cons y t ih =>
    simp only [removeAddr]
    split
    · exact List.sublist_cons_self y t
    · exact ih.cons_cons y

/-! ### The poll -/

/-- Everything `poll_arp` can do (45_interface.md R238 to R241). -/
theorem pollArp_cases (arp : ArpAnswer) (snd : SendAnswer) (p : List Byte) (s : State) :
    (∃ e, pollArpCheck p = .error e ∧ pollArp arp snd p s = .error { err := e, survive := s })
    ∨ ∃ q, pollArpCheck p = .ok q ∧
      ((arp = .noSpace ∧ pollArp arp snd p s = .ok (emitArpLearn q.spa q.sha arp s, pollDrop .arpNoSpace))
      ∨ (arp = .ok ∧ owned s q.tpa = false
          ∧ pollArp arp snd p s = .ok (emitArpLearn q.spa q.sha arp s, pollDrop .arpNotForUs))
      ∨ (arp = .ok ∧ owned s q.tpa = true
          ∧ pollArp arp snd p s = pollArpReplyStep snd q (emitArpLearn q.spa q.sha arp s))) := by
  unfold pollArp
  cases h : pollArpCheck p with
  | error e => exact .inl ⟨e, rfl, rfl⟩
  | ok q =>
    refine .inr ⟨q, rfl, ?_⟩
    cases arp with
    | noSpace => exact .inl ⟨rfl, rfl⟩
    | ok =>
      have ho : owned (emitArpLearn q.spa q.sha .ok s) q.tpa = owned s q.tpa := rfl
      cases hq : owned s q.tpa with
      | false => exact .inr (.inl ⟨rfl, rfl, by simp [pollArpAct, ho, hq]⟩)
      | true => exact .inr (.inr ⟨rfl, rfl, by simp [pollArpAct, ho, hq]⟩)

/-- The two ends of a reply (R241, R244). -/
theorem pollArpReplyStep_cases (snd : SendAnswer) (q : ArpRequest) (s : State) :
    (snd = .ok ∧ pollArpReplyStep snd q s
        = .ok (emitSend (arpReplyFrame (ownMac s) (txTags s.vlanCfg) q) .ok
            (putReply (arpReplyFrame (ownMac s) (txTags s.vlanCfg) q) s),
          pollArpReply (arpReplyFrame (ownMac s) (txTags s.vlanCfg) q).length))
    ∨ (snd = .fail ∧ pollArpReplyStep snd q s = .error
        { err := { code := .deviceSend, info := 0#32 },
          survive := emitSend (arpReplyFrame (ownMac s) (txTags s.vlanCfg) q) .fail
            (putReply (arpReplyFrame (ownMac s) (txTags s.vlanCfg) q) s) }) := by
  cases snd with
  | ok => exact .inl ⟨rfl, rfl⟩
  | fail => exact .inr ⟨rfl, rfl⟩

/-- The reply is 42, 46 or 50 bytes long (R240). -/
theorem arpReplyFrame_length (own : Mac) (c : VlanCfg) (q : ArpRequest) :
    (arpReplyFrame own (txTags c) q).length
      = if c.txTag0 then (if c.txTag1 then 50 else 46) else 42 := by
  unfold txTags
  cases c.txTag0 <;> cases c.txTag1 <;> rfl

end Sys2Proof.Machine
end

