-- ==== Sys2Proof/Laws/Effects.lean ====
section
/-!
SUPPORT. What a whole command can do, said once: `exec_cases` for every command but RX_POLL, `poll_cases` for
RX_POLL. Statements about all commands follow from these two without unfolding a meaning.
-/

namespace Sys2Proof.Machine

open Sys2Proof

/-! ### The receive branch and the window stores -/

/-- The slots after the receive branch: as before, or one slot claimed, stored to and perhaps freed. -/
def FragSlots (f : Ipv4Info) (p : List Byte) (s : State) (t : List Slot) : Prop :=
  t = s.slots ∨ ∃ k slots, slotFor f.ident s.slots = some (k, slots) ∧ f.off + p.length ≤ s.params.fragBufSize.toNat ∧
    ((f.mf = true ∧ t = (storedFragment f p k slots s).slots) ∨ (f.mf = false ∧ t = freeSlot k (storedFragment f p k slots s).slots))

/-- Whatever the receive branch does, it changes slots and history at most. -/
theorem ipv4Receive_effect (f : Ipv4Info) (w : List Byte) (s : State) :
    ∃ sl h, (ipv4Receive f w s).1 = { s with slots := sl, history := h } ∧ FragSlots f (ipv4Payload f w) s sl
      ∧ (ipv4Receive f w s).2.ident = f.ident
      ∧ ((h = s.history ∧ (ipv4Receive f w s).2.outcome ≠ .delivered ∧ (ipv4Receive f w s).2.outcome ≠ .arpReply) ∨
         (∃ bs, h = s.history ++ [.deliver f.proto bs] ∧ (ipv4Receive f w s).2.outcome = .delivered ∧ (ipv4Receive f w s).2.proto = f.proto)) := by
  have disp : ∀ bs slot (u : State), ∃ h, (dispatchL4 f bs slot u).1 = { u with history := h } ∧ (dispatchL4 f bs slot u).2.ident = f.ident ∧ 
      ((h = u.history ∧ (dispatchL4 f bs slot u).2.outcome ≠ .delivered ∧ (dispatchL4 f bs slot u).2.outcome ≠ .arpReply) ∨
         (∃ bs', h = u.history ++ [.deliver f.proto bs'] ∧ (dispatchL4 f bs slot u).2.outcome = .delivered ∧ (dispatchL4 f bs slot u).2.proto = f.proto)) := by
    intro bs slot u
    rcases dispatchL4_cases f bs slot u with ⟨_, h⟩ | ⟨_, _, h⟩ | ⟨_, k, _, h⟩ <;> rw [h]
    · exact ⟨_, rfl, rfl, .inr ⟨_, rfl, rfl, rfl⟩⟩
    · exact ⟨_, rfl, rfl, .inl ⟨rfl, by simp [ipv4Out], by simp [ipv4Out]⟩⟩
    · exact ⟨_, rfl, rfl, .inl ⟨rfl, by simp [ipv4Out], by simp [ipv4Out]⟩⟩
  rcases ipv4Receive_cases f w s with ⟨_, _, h⟩ | ⟨_, h⟩ | ⟨_, _, h⟩ | ⟨_, _, h⟩ <;> rw [h]
  · exact ⟨_, _, rfl, .inl rfl, rfl, .inl ⟨rfl, by simp [ipv4Out], by simp [ipv4Out]⟩⟩
  · exact ⟨_, _, rfl, .inl rfl, rfl, .inl ⟨rfl, by simp [ipv4Out], by simp [ipv4Out]⟩⟩
  · obtain ⟨hh, h1, h2, h3⟩ := disp (ipv4Payload f w) none s
    exact ⟨_, hh, h1, .inl rfl, h2, h3⟩
  · rcases reassemble_cases f (ipv4Payload f w) s with ⟨_, h⟩ | ⟨_, _, h⟩ | ⟨hle, k, slots, hs, h⟩
    · rw [h]; exact ⟨_, _, rfl, .inl rfl, rfl, .inl ⟨rfl, by simp [ipv4Out], by simp [ipv4Out]⟩⟩
    · rw [h]; exact ⟨_, _, rfl, .inl rfl, rfl, .inl ⟨rfl, by simp [ipv4Out], by simp [ipv4Out]⟩⟩
    · rcases h with ⟨hm, h⟩ | ⟨hm, h⟩ <;> rw [h]
      · exact ⟨_, _, rfl, .inr ⟨k, slots, hs, hle, .inl ⟨hm, rfl⟩⟩, rfl, .inl ⟨rfl, by simp [ipv4Out], by simp [ipv4Out]⟩⟩
      · obtain ⟨hh, h1, h2, h3⟩ := disp ((storedFragment f (ipv4Payload f w) k slots s).readBytes (.slot k) 0 (f.off + (ipv4Payload f w).length)) (some k)
          { (storedFragment f (ipv4Payload f w) k slots s) with slots := freeSlot k (storedFragment f (ipv4Payload f w) k slots s).slots }
        exact ⟨freeSlot k (storedFragment f (ipv4Payload f w) k slots s).slots, hh, h1, .inr ⟨k, slots, hs, hle, .inr ⟨hm, rfl⟩⟩, h2, h3⟩

/-- The receive branch never drops for an ARP reason (60_exceptions.md R266). -/
theorem ipv4Receive_reason (f : Ipv4Info) (w : List Byte) (s : State) :
    (ipv4Receive f w s).2.reason ≠ some .arpNoSpace ∧ (ipv4Receive f w s).2.reason ≠ some .arpNotForUs := by
  have disp : ∀ bs slot (u : State),
      (dispatchL4 f bs slot u).2.reason ≠ some .arpNoSpace ∧ (dispatchL4 f bs slot u).2.reason ≠ some .arpNotForUs := by
    intro bs slot u
    rcases dispatchL4_cases f bs slot u with ⟨_, h⟩ | ⟨_, _, h⟩ | ⟨_, _, _, h⟩ <;> rw [h] <;> simp [ipv4Out]
  rcases ipv4Receive_cases f w s with ⟨_, _, h⟩ | ⟨_, h⟩ | ⟨_, _, h⟩ | ⟨_, _, h⟩ <;> rw [h]
  · simp [ipv4Out]
  · simp [ipv4Out]
  · exact disp _ _ _
  · rcases reassemble_cases f (ipv4Payload f w) s with ⟨_, h⟩ | ⟨_, _, h⟩ | ⟨_, _, _, _, ⟨_, h⟩ | ⟨_, h⟩⟩ <;> rw [h]
    · simp [ipv4Out]
    · simp [ipv4Out]
    · simp [ipv4Out]
    · exact disp _ _ _

/-- The VLAN check never fails for an ARP reason (42_vlan.md R171). -/
theorem vlanCheck_reason {c : VlanCfg} {k : PKind} {v0 v1 : Vid} {r : DropReason} (h : vlanCheck c k v0 v1 = some r) :
    r ≠ .arpNoSpace ∧ r ≠ .arpNotForUs := by
  cases k <;> simp only [vlanCheck] at h <;> (try split at h) <;> cases h <;> simp

/-- The bytes of one space were changed inside the window only. -/
def WindowStore (b : Buf) (s t : State) : Prop :=
  ∃ m : Memory, t = s.setMem (spaceOf b) m
    ∧ (∀ j, ¬ (winBase s ≤ j ∧ j < winBase s + winLen s) → m.lookup j = (s.memOf (spaceOf b)).lookup j)
    ∧ (memSound (s.memOf (spaceOf b)) (spaceSize s.params (spaceOf b)) → memSound m (spaceSize s.params (spaceOf b)))

/-- The state a command leaves when it ends without an error, before the completion itself. -/
def OkEffect (i : Instr) (s t : State) : Prop :=
  match i with
  | .csumClear | .csumBytes _ | .csumWord | .csumPseudo => ∃ x, t = { s with csumAcc := x }
  | .csumVerify => ∃ x, t = { s with res := { s.res with r0 := x } }
  | .ethParse b => ∃ f, t = { s with res := ethResults (winBytes b s) f s.res }
  | .vlanStrip _ | .arpParse _ | .ipv4Parse _ => ∃ r, t = { s with res := r }
  | .ethSetDst b | .ethSetSrc b | .ethSetProto b | .arpSetSrcMap b | .arpSetTgtMap b | .arpSetOper b => WindowStore b s t
  | .ipv4Input b => ∃ f, ipv4Decode s.ctrl.csumBypass (winBytes b s) = .ok f
      ∧ t = (ipv4Receive f (winBytes b s) s).1.putOutcome (ipv4Receive f (winBytes b s) s).2
  | .fragFlush => ∃ n, t = { s with slots := flushSlots (argSlot s) 0 s.slots, res := { s.res with r0 := n } }
  | .addrAdd => ∃ a, t = putCount { s with addrs := a } ∧
      (a = s.addrs ∨ ((argPrefixLen s).toNat ≤ 32 ∧ s.addrs.any (entryIs (argIp s) (argPrefixLen s)) = false ∧ s.addrs.length < s.params.nIpAddrs.toNat
        ∧ a = insertAddr { addr := argIp s, plen := (argPrefixLen s).setWidth 6 } s.addrs))
  | .addrDel => t = putCount { s with addrs := removeAddr (argIp s) (argPrefixLen s) s.addrs }
  | .rxPoll => False

theorem setMem_setMem_window (b : Buf) (s : State) (m m' : Memory) : (s.setMem (spaceOf b) m).setMem (spaceOf b) m' = s.setMem (spaceOf b) m' := by
  cases b <;> rfl

theorem memOf_setMem_window (b : Buf) (s : State) (m : Memory) : (s.setMem (spaceOf b) m).memOf (spaceOf b) = m := by
  cases b <;> rfl

theorem winWrite_store {b : Buf} {s : State} {off : Nat} {bs : List Byte}
    (hw : winBase s + winLen s ≤ spaceSize s.params (spaceOf b)) (h : off + bs.length ≤ winLen s) : WindowStore b s (s.winWrite b off bs) := by
  refine ⟨_, rfl, fun j hj => ?_, fun hm => memSound_writeBytes hm (by omega)⟩
  rw [lookup_writeBytes, if_neg (by omega)]

theorem WindowStore.trans {b : Buf} {s t u : State} (h : WindowStore b s t) (h' : WindowStore b t u) : WindowStore b s u := by
  obtain ⟨m, rfl, h1, h2⟩ := h
  obtain ⟨m', rfl, h1', h2'⟩ := h'
  refine ⟨m', setMem_setMem_window b s m m', fun j hj => ?_, fun hm => ?_⟩
  · rw [h1' j (by cases b <;> exact hj), memOf_setMem_window, h1 j hj]
  · have := h2' (by rw [memOf_setMem_window]; cases b <;> exact h2 hm)
    cases b <;> exact this

theorem WindowStore.refl (b : Buf) (s : State) : WindowStore b s s := ⟨s.memOf (spaceOf b), by cases b <;> rfl, fun _ _ => rfl, id⟩

theorem winWrites_store {b : Buf} (l : List (Nat × List Byte)) {s : State}
    (hw : winBase s + winLen s ≤ spaceSize s.params (spaceOf b)) (h : ∀ x ∈ l, x.2 = [] ∨ x.1 + x.2.length ≤ winLen s) :
    WindowStore b s (s.winWrites b l) := by
  induction l generalizing s with
  | nil => exact .refl b s
  | cons x l ih =>
    obtain ⟨off, bs⟩ := x
    have h0 := h (off, bs) List.mem_cons_self
    have hst : WindowStore b s (s.winWrite b off bs) := by
      rcases h0 with h0 | h0
      · simp only at h0; subst h0
        have : s.winWrite b off [] = s := by cases b <;> rfl
        rw [this]; exact .refl b s
      · exact winWrite_store hw h0
    refine hst.trans (ih ?_ ?_)
    · cases b <;> exact hw
    · intro x hx; have := h x (List.mem_cons_of_mem _ hx)
      cases b <;> exact this

theorem arpSetMap_store {side : ArpSide} {b : Buf} {s t : State}
    (hw : winBase s + winLen s ≤ spaceSize s.params (spaceOf b)) (h : arpSetMap side b s (winBytes b s) = .ok t) : WindowStore b s t := by
  unfold arpSetMap at h
  simp only at h
  split at h
  · contradiction
  · split at h
    · contradiction
    · rename_i h1 h2
      cases h
      refine winWrites_store _ hw ?_
      simp only [winBytes_length] at h1 h2
      simp only [arpSetEnd] at h2
      intro x hx
      simp only [arpSetWrites, List.mem_cons, List.not_mem_nil, or_false] at hx
      rcases hx with rfl | rfl | rfl | rfl | rfl | rfl
      · right; simp only [wr16_length]; omega
      · right; simp only [wr16_length]; omega
      · by_cases hk : argHwk s <;> simp [hk]; omega
      · by_cases hk : argPrk s <;> simp [hk]; omega
      · by_cases hk : argHwk s
        · simp [hk]
        · right; simp only [hk] at h2 ⊢; simp only [Bool.false_eq_true, if_false, wr48_length] at h2 ⊢; omega
      · by_cases hk : argPrk s
        · simp [hk]
        · right; simp only [hk] at h2 ⊢; simp only [Bool.false_eq_true, if_false, wr32_length] at h2 ⊢; omega

theorem setField_store {b : Buf} {s t : State} {need off : Nat} {bs : List Byte} (hn : off + bs.length ≤ need)
    (hw : winBase s + winLen s ≤ spaceSize s.params (spaceOf b)) (h : setField b s need off bs = .ok t) : WindowStore b s t := by
  rw [setField_eq] at h
  split at h
  · contradiction
  · cases h; exact winWrite_store hw (by omega)

/-- Everything a command but RX_POLL can do: an error that leaves all else (R261), or its effect and a completion (R260). -/
theorem exec_cases {i : Instr} (hi : i ≠ .rxPoll) {s t : State} (h : exec i s = .next t) :
    (∃ e, t = raiseErr e s) ∨ ∃ u, OkEffect i s u ∧ t = complete u := by
  have win : ∀ {b : Buf} {k : List Byte → Except Err State}, withWindow b s k = t →
      (∀ u, winBase s + winLen s ≤ spaceSize s.params (spaceOf b) → k (winBytes b s) = .ok u → OkEffect i s u) →
      (∃ e, t = raiseErr e s) ∨ ∃ u, OkEffect i s u ∧ t = complete u := by
    intro b k hk hok
    rcases withWindow_cases hk with ⟨_, h⟩ | ⟨hw, ⟨u, hu, h⟩ | ⟨e, _, h⟩⟩
    · exact .inl ⟨_, h⟩
    · exact .inr ⟨u, hok u hw hu, h⟩
    · exact .inl ⟨e, h⟩
  have fin : ∀ {r : Except Err State}, finish s r = t → (∀ u, r = .ok u → OkEffect i s u) →
      (∃ e, t = raiseErr e s) ∨ ∃ u, OkEffect i s u ∧ t = complete u := by
    intro r hr hok
    rcases finish_cases hr with ⟨u, hu, h⟩ | ⟨e, _, h⟩
    · exact .inr ⟨u, hok u hu, h⟩
    · exact .inl ⟨e, h⟩
  cases i with
  | rxPoll => exact absurd rfl hi
  | csumClear => cases h; exact .inr ⟨_, ⟨_, rfl⟩, rfl⟩
  | csumWord => cases h; exact .inr ⟨_, ⟨_, rfl⟩, rfl⟩
  | csumVerify => cases h; exact .inr ⟨_, ⟨_, rfl⟩, rfl⟩
  | csumBytes b => 
    refine win (Host.Outcome.next.inj h) ?_
    intro u _ hu; cases hu; exact ⟨_, rfl⟩
  | csumPseudo =>
    refine fin (Host.Outcome.next.inj h) ?_
    intro u hu; unfold csumPseudoBody at hu; split at hu <;> cases hu; exact ⟨_, rfl⟩
  | ethParse b =>
    refine win (Host.Outcome.next.inj h) ?_
    intro u _ hu; unfold ethParseBody at hu; split at hu <;> cases hu; exact ⟨_, rfl⟩
  | vlanStrip b =>
    refine win (Host.Outcome.next.inj h) ?_
    intro u _ hu; unfold vlanStripBody at hu; split at hu <;> cases hu; exact ⟨_, rfl⟩
  | arpParse b =>
    refine win (Host.Outcome.next.inj h) ?_
    intro u _ hu; unfold arpParseBody at hu; split at hu <;> cases hu; exact ⟨_, rfl⟩
  | ipv4Parse b =>
    refine win (Host.Outcome.next.inj h) ?_
    intro u _ hu; unfold ipv4ParseBody at hu; split at hu <;> cases hu; exact ⟨_, rfl⟩
  | ethSetDst b => exact win (Host.Outcome.next.inj h) fun u hw hu => setField_store (by simp) hw hu
  | ethSetSrc b => exact win (Host.Outcome.next.inj h) fun u hw hu => setField_store (by simp) hw hu
  | arpSetOper b => exact win (Host.Outcome.next.inj h) fun u hw hu => setField_store (by simp) hw hu
  | ethSetProto b =>
    refine win (Host.Outcome.next.inj h) fun u hw hu => ?_
    unfold ethSetProtoBody at hu
    split at hu
    · cases hu
    · rename_i k _
      exact setField_store (by cases k <;> simp [protoNeed, protoBytes]) hw hu
  | arpSetSrcMap b => exact win (Host.Outcome.next.inj h) fun u hw hu => arpSetMap_store hw hu
  | arpSetTgtMap b => exact win (Host.Outcome.next.inj h) fun u hw hu => arpSetMap_store hw hu
  | ipv4Input b =>
    refine win (Host.Outcome.next.inj h) fun u hw hu => ?_
    unfold ipv4InputBody at hu
    rcases ipv4InputOn_cases s (winBytes b s) with ⟨e, _, h⟩ | ⟨f, hf, h⟩ <;> rw [h] at hu <;> cases hu
    exact ⟨f, hf, rfl⟩
  | fragFlush =>
    refine fin (Host.Outcome.next.inj h) fun u hu => ?_
    unfold fragFlushBody at hu; split at hu <;> cases hu; exact ⟨_, rfl⟩
  | addrAdd =>
    refine fin (Host.Outcome.next.inj h) fun u hu => ?_
    unfold addrAddBody at hu
    repeat' split at hu
    all_goals cases hu
    · exact ⟨s.addrs, rfl, .inl rfl⟩
    · rename_i h1 h2 h3
      exact ⟨_, rfl, .inr ⟨by omega, by simpa using h2, by omega, rfl⟩⟩
  | addrDel =>
    refine fin (Host.Outcome.next.inj h) fun u hu => ?_
    unfold addrDelBody at hu
    split at hu <;> cases hu
    exact rfl

/-! ### RX_POLL -/

/-- The state of a poll once its reply `frame` is built and sent (R239 to R241). -/
def repliedState (q : ArpRequest) (frame : List Byte) (snd : SendAnswer) (s : State) : State :=
  { s with
    txBuf := s.txBuf.writeBytes 0 frame
    txLen := BitVec.ofNat 16 frame.length
    history := s.history ++ [.arpLearn q.spa q.sha .ok, .send frame snd]
    draws := s.draws + 2 }

theorem repliedState_eq (q : ArpRequest) (frame : List Byte) (snd : SendAnswer) (s : State) :
    emitSend frame snd (putReply frame (emitArpLearn q.spa q.sha .ok s)) = repliedState q frame snd s := by
  simp [repliedState, emitSend, putReply, emitArpLearn, State.writeBytes, State.setMem, State.memOf]

/-- The reply a state builds for an ARP request (R240). -/
def replyTo (q : ArpRequest) (s : State) : List Byte := arpReplyFrame (ownMac s) (txTags s.vlanCfg) q

theorem replyTo_length_le (q : ArpRequest) (s : State) : (replyTo q s).length ≤ 50 := by
  rw [replyTo, arpReplyFrame_length]
  split
  · split <;> omega
  · omega

/-- Everything RX_POLL can do on a consumed frame (45_interface.md R233 to R247). -/
inductive PollEnd (s : State) : State → Prop where
  | error (e : Err) (h : e.code ≠ .deviceSend) : PollEnd s (raiseErr e s)
  | drop (r : DropReason) (h : r ≠ .arpNoSpace ∧ r ≠ .arpNotForUs) : PollEnd s (complete (s.putOutcome (pollDrop r)))
  | ipv4 (f : Ipv4Info) (w : List Byte) (h : ipv4Decode s.ctrl.csumBypass w = .ok f) :
      PollEnd s (complete ((ipv4Receive f w s).1.putOutcome (ipv4Receive f w s).2))
  | arpDrop (q : ArpRequest) (a : ArpAnswer) (r : DropReason)
      (h : (a = .noSpace ∧ r = .arpNoSpace) ∨ (a = .ok ∧ r = .arpNotForUs)) :
      PollEnd s (complete ((emitArpLearn q.spa q.sha a s).putOutcome (pollDrop r)))
  | replied (q : ArpRequest) :
      PollEnd s (complete ((repliedState q (replyTo q s) .ok s).putOutcome (pollArpReply (replyTo q s).length)))
  | sendFailed (q : ArpRequest) : PollEnd s (raiseErr { code := .deviceSend, info := 0#32 } (repliedState q (replyTo q s) .fail s))

theorem ipv4CheckLen_err {w e} (h : ipv4CheckLen w = .error e) : e.code ≠ .deviceSend := by
  rcases ipv4CheckLen_cases w with ⟨_, h'⟩ | ⟨_, _, h'⟩ | ⟨_, _, _, h'⟩ | ⟨_, _, _, h'⟩ | ⟨_, _, _, h'⟩ <;> rw [h'] at h <;> cases h <;> simp [truncatedErr]

theorem pollIpv4_end (w : List Byte) (s : State) : PollEnd s (finishPoll (pollIpv4 w s)) := by
  unfold pollIpv4
  rcases ipv4InputOn_cases s w with ⟨e, he, h⟩ | ⟨f, hf, h⟩ <;> rw [h]
  · refine .error e ?_
    unfold ipv4Decode at he
    split at he
    · rename_i h'; cases he; exact ipv4CheckLen_err h'
    · cases he
  · exact .ipv4 f w hf

theorem pollArp_end (arp snd p) (s : State) : PollEnd s (finishPoll (pollArp arp snd p s)) := by
  rcases pollArp_cases arp snd p s with ⟨e, he, h⟩ | ⟨q, hq, ⟨rfl, h⟩ | ⟨rfl, ho, h⟩ | ⟨rfl, ho, h⟩⟩ <;> rw [h]
  · refine .error e ?_
    unfold pollArpCheck at he
    rcases arpCheckLen_cases p with ⟨_, h'⟩ | ⟨_, _, h'⟩ | ⟨_, _, h'⟩ <;> rw [h'] at he
    · cases he; simp
    · cases he; simp
    · simp only at he
      repeat' split at he
      all_goals cases he <;> simp [unexpectedType]
  · exact .arpDrop q .noSpace _ (.inl ⟨rfl, rfl⟩)
  · exact .arpDrop q .ok _ (.inr ⟨rfl, rfl⟩)
  · rcases pollArpReplyStep_cases snd q (emitArpLearn q.spa q.sha .ok s) with ⟨rfl, h⟩ | ⟨rfl, h⟩ <;> rw [h]
    · rw [repliedState_eq]
      exact .replied q
    · rw [repliedState_eq]
      exact .sendFailed q

theorem pollFrame_end (arp snd) (s : State) : PollEnd s (finishPoll (pollFrame arp snd s)) := by
  unfold pollFrame
  split
  · exact .error _ (by simp)
  · split
    · unfold pollIp
      split
      · exact .error _ (by simp [truncatedErr])
      · split
        · exact .error _ (by simp)
        · exact pollIpv4_end _ s
    · unfold pollEthernet
      split
      · rename_i e he
        refine .error e ?_
        rcases ethClassify_cases (rxFrame s) with ⟨_, h⟩ | ⟨_, _, _, h⟩ | ⟨_, _, _, _, h⟩ | ⟨_, _, _, h⟩ | ⟨_, _, _, h⟩ | ⟨_, _, k, l, h, _⟩ <;> rw [h] at he <;> cases he <;> simp [wrongLength]
      · split
        · split
          · rename_i hv; exact .drop _ (vlanCheck_reason hv)
          · unfold pollL3
            split
            · exact pollArp_end _ _ _ s
            · exact pollIpv4_end _ s
            · exact .drop _ (by simp)
            · exact .drop _ (by simp)
        · exact .drop _ (by simp)

theorem poll_cases {s t : State} (h : exec .rxPoll s = .next t) :
    (s.rxPending = false ∧ t = complete (s.putOutcome pollNoFrame))
    ∨ (s.rxPending = true ∧ PollEnd { s with rxPending := false } t) := by
  have h := (Host.Outcome.next.inj h).symm
  unfold rxPollWith at h
  subst h
  cases hp : s.rxPending with
  | false => exact .inl ⟨rfl, rfl⟩
  | true => exact .inr ⟨rfl, pollFrame_end _ _ _⟩

end Sys2Proof.Machine
end

