-- ==== Sys2Proof/Laws/PerInstr.lean ====
section
/-!
SUPPORT. Statements about each command as syntax, one lemma per constructor: its word is legal.
-/

namespace Sys2Proof.Laws

open Sys2Proof

/-- The word of a command breaks none of the three conditions of 30_encoding.md R81. -/
def EncodeLegal.Statement (i : Instr) : Prop := wordWf (encode i) = true

theorem EncodeLegal.csumClear : EncodeLegal.Statement .csumClear := by unfold EncodeLegal.Statement; decide
theorem EncodeLegal.csumBytes (b : Buf) : EncodeLegal.Statement (.csumBytes b) := by unfold EncodeLegal.Statement; cases b <;> decide
theorem EncodeLegal.csumWord : EncodeLegal.Statement .csumWord := by unfold EncodeLegal.Statement; decide
theorem EncodeLegal.csumPseudo : EncodeLegal.Statement .csumPseudo := by unfold EncodeLegal.Statement; decide
theorem EncodeLegal.csumVerify : EncodeLegal.Statement .csumVerify := by unfold EncodeLegal.Statement; decide
theorem EncodeLegal.ethParse (b : Buf) : EncodeLegal.Statement (.ethParse b) := by unfold EncodeLegal.Statement; cases b <;> decide
theorem EncodeLegal.ethSetDst (b : Buf) : EncodeLegal.Statement (.ethSetDst b) := by unfold EncodeLegal.Statement; cases b <;> decide
theorem EncodeLegal.ethSetSrc (b : Buf) : EncodeLegal.Statement (.ethSetSrc b) := by unfold EncodeLegal.Statement; cases b <;> decide
theorem EncodeLegal.ethSetProto (b : Buf) : EncodeLegal.Statement (.ethSetProto b) := by unfold EncodeLegal.Statement; cases b <;> decide
theorem EncodeLegal.vlanStrip (b : Buf) : EncodeLegal.Statement (.vlanStrip b) := by unfold EncodeLegal.Statement; cases b <;> decide
theorem EncodeLegal.arpParse (b : Buf) : EncodeLegal.Statement (.arpParse b) := by unfold EncodeLegal.Statement; cases b <;> decide
theorem EncodeLegal.arpSetSrcMap (b : Buf) : EncodeLegal.Statement (.arpSetSrcMap b) := by unfold EncodeLegal.Statement; cases b <;> decide
theorem EncodeLegal.arpSetTgtMap (b : Buf) : EncodeLegal.Statement (.arpSetTgtMap b) := by unfold EncodeLegal.Statement; cases b <;> decide
theorem EncodeLegal.arpSetOper (b : Buf) : EncodeLegal.Statement (.arpSetOper b) := by unfold EncodeLegal.Statement; cases b <;> decide
theorem EncodeLegal.ipv4Parse (b : Buf) : EncodeLegal.Statement (.ipv4Parse b) := by unfold EncodeLegal.Statement; cases b <;> decide
theorem EncodeLegal.ipv4Input (b : Buf) : EncodeLegal.Statement (.ipv4Input b) := by unfold EncodeLegal.Statement; cases b <;> decide
theorem EncodeLegal.fragFlush : EncodeLegal.Statement .fragFlush := by unfold EncodeLegal.Statement; decide
theorem EncodeLegal.addrAdd : EncodeLegal.Statement .addrAdd := by unfold EncodeLegal.Statement; decide
theorem EncodeLegal.addrDel : EncodeLegal.Statement .addrDel := by unfold EncodeLegal.Statement; decide
theorem EncodeLegal.rxPoll : EncodeLegal.Statement .rxPoll := by unfold EncodeLegal.Statement; decide

end Sys2Proof.Laws
end

