-- ==== Sys2Proof/Tests/Slice0.lean ====
section
/-!
SUPPORT. The model's own tests: decodings of words written out from 30_encoding.md R80 and R83, the
well-formedness smoke tests, one step per command with the expected values of spec/95_test_vectors.md, and for
each statement with hypotheses a concrete state that meets them (`witness_…`).
-/

namespace Sys2Proof.Tests

set_option Elab.async false
set_option linter.unusedTactic false

open Sys2Proof Sys2Proof.Machine

/-! ### Helpers -/

/-- The `n` big-endian bytes of a number. -/
def bytes (n v : Nat) : List Byte := (List.range n).map fun i => BitVec.ofNat 8 (v / 256 ^ (n - 1 - i))

/-- Six operand values. -/
def ops (a0 a1 a2 a3 a4 a5 : Word) : Args := { a0 := a0, a1 := a1, a2 := a2, a3 := a3, a4 := a4, a5 := a5 }

/-- The reset state with bytes in RX_BUF from 0 on and the window on them. -/
def onRx (bs : List Byte) : State :=
  { State.reset.writeBytes .rx 0 bs with args := ops 0#32 (word32 bs.length) 0#32 0#32 0#32 0#32 }

/-- The reset state with operands and a window of `len` bytes at TX_BUF byte 0. -/
def onTx (len a2 a3 a4 a5 : Word) : State := { State.reset with args := ops 0#32 len a2 a3 a4 a5 }

/-- A state with the address 192.168.1.1/24 and the MAC 02:00:00:00:00:01, and a frame pending. -/
def pending (bs : List Byte) : State :=
  { State.reset.writeBytes .rx 0 bs with
    macHi := 0x02000000#32, macLo := 0x0001#16, addrs := [{ addr := 0xC0A80101#32, plen := 24#6 }],
    rxLen := BitVec.ofNat 16 bs.length, rxPending := true }

/-- The state one command word leaves, through `step`. -/
def runWord (w : Nat) (s : State) : State :=
  match step (s.withFetchWord 32 w) with
  | .next t => t
  | .fault _ => s
  | .refused _ => s

/-- The state a command leaves. -/
def after (i : Instr) (s : State) : State :=
  match exec i s with
  | .next t => t
  | .fault _ => s
  | .refused _ => s

theorem exec_after (i : Instr) (s : State) : exec i s = .next (after i s) := by cases i <;> rfl

/-- A state whose next host operation is `op`. -/
def hostNext (op : HostOp) : State := { State.reset with inbox := [op] }

/-- STATUS and ERR_INFO. -/
def errWords (s : State) : Word × Word := (s.status.toWord, s.errInfo)

/-- The header H1 of 95_test_vectors.md 2.2. -/
def h1 : List Byte := bytes 20 0x4500007300004000_4011b861c0a80001_c0a800c7

/-- The header H0: H1 with checksum 0. -/
def h0 : List Byte := bytes 20 0x4500007300004000_40110000c0a80001_c0a800c7

/-- The ARP request REQ of 2.5. -/
def req : List Byte := bytes 28 0x00010800060400010200000000_02c0a80102000000000000c0a80101

/-- The reply REP of 2.5. -/
def rep : List Byte := bytes 28 0x00010800060400020200000000_01c0a80101020000000002c0a80102

/-- The frame REQF of 2.8, with its target address. -/
def reqf (tpa : Nat) : List Byte := bytes 14 0xffffffffffff0200000000020806 ++ req.take 24 ++ bytes 4 tpa

/-- The fragment F1, F2 or F3 of 2.7. -/
def frag1 : List Byte := bytes 36 0x45000024123420004011c541c0a80102c0a80101_101112131415161718191a1b1c1d1e1f

def frag2 : List Byte := bytes 36 0x45000024123420024011c53fc0a80102c0a80101_202122232425262728292a2b2c2d2e2f

def frag3 : List Byte := bytes 25 0x45000019123400044011e548c0a80102c0a80101_a0a1a2a3a4

/-! ### Decoding: each word is written out from {reserved[31:9], B[8], OPC[7:0]} -/

theorem test_decode_csumClear : decode 0b00000000000000000000000000010000#32 = .ok .csumClear := by decide

theorem test_decode_csumBytes :
    decode 0b00000000000000000000000000010001#32 = .ok (.csumBytes .rx)
      ∧ decode 0b00000000000000000000000100010001#32 = .ok (.csumBytes .tx) := by decide

theorem test_decode_csumWord : decode 0b00000000000000000000000000010010#32 = .ok .csumWord := by decide

theorem test_decode_csumPseudo : decode 0b00000000000000000000000000010011#32 = .ok .csumPseudo := by decide

theorem test_decode_csumVerify : decode 0b00000000000000000000000000010100#32 = .ok .csumVerify := by decide

theorem test_decode_ethParse :
    decode 0b00000000000000000000000000100000#32 = .ok (.ethParse .rx)
      ∧ decode 0b00000000000000000000000100100000#32 = .ok (.ethParse .tx) := by decide

theorem test_decode_ethSetDst :
    decode 0b00000000000000000000000000100001#32 = .ok (.ethSetDst .rx)
      ∧ decode 0b00000000000000000000000100100001#32 = .ok (.ethSetDst .tx) := by decide

theorem test_decode_ethSetSrc :
    decode 0b00000000000000000000000000100010#32 = .ok (.ethSetSrc .rx)
      ∧ decode 0b00000000000000000000000100100010#32 = .ok (.ethSetSrc .tx) := by decide

theorem test_decode_ethSetProto :
    decode 0b00000000000000000000000000100011#32 = .ok (.ethSetProto .rx)
      ∧ decode 0b00000000000000000000000100100011#32 = .ok (.ethSetProto .tx) := by decide

theorem test_decode_vlanStrip :
    decode 0b00000000000000000000000000101000#32 = .ok (.vlanStrip .rx)
      ∧ decode 0b00000000000000000000000100101000#32 = .ok (.vlanStrip .tx) := by decide

theorem test_decode_arpParse :
    decode 0b00000000000000000000000000110000#32 = .ok (.arpParse .rx)
      ∧ decode 0b00000000000000000000000100110000#32 = .ok (.arpParse .tx) := by decide

theorem test_decode_arpSetSrcMap :
    decode 0b00000000000000000000000000110001#32 = .ok (.arpSetSrcMap .rx)
      ∧ decode 0b00000000000000000000000100110001#32 = .ok (.arpSetSrcMap .tx) := by decide

theorem test_decode_arpSetTgtMap :
    decode 0b00000000000000000000000000110010#32 = .ok (.arpSetTgtMap .rx)
      ∧ decode 0b00000000000000000000000100110010#32 = .ok (.arpSetTgtMap .tx) := by decide

theorem test_decode_arpSetOper :
    decode 0b00000000000000000000000000110011#32 = .ok (.arpSetOper .rx)
      ∧ decode 0b00000000000000000000000100110011#32 = .ok (.arpSetOper .tx) := by decide

theorem test_decode_ipv4Parse :
    decode 0b00000000000000000000000001000000#32 = .ok (.ipv4Parse .rx)
      ∧ decode 0b00000000000000000000000101000000#32 = .ok (.ipv4Parse .tx) := by decide

theorem test_decode_ipv4Input :
    decode 0b00000000000000000000000001000001#32 = .ok (.ipv4Input .rx)
      ∧ decode 0b00000000000000000000000101000001#32 = .ok (.ipv4Input .tx) := by decide

theorem test_decode_fragFlush : decode 0b00000000000000000000000001000010#32 = .ok .fragFlush := by decide

theorem test_decode_addrAdd : decode 0b00000000000000000000000001001000#32 = .ok .addrAdd := by decide

theorem test_decode_addrDel : decode 0b00000000000000000000000001001001#32 = .ok .addrDel := by decide

theorem test_decode_rxPoll : decode 0b00000000000000000000000001010000#32 = .ok .rxPoll := by decide

/-- Every bit of the reserved field is checked, at both ends (vector X4). -/
theorem test_decode_rejects :
    decode 0x00000220#32 = .error .reservedBits ∧ decode 0x80000020#32 = .error .reservedBits
      ∧ decode 0x00000150#32 = .error .bufferBit ∧ decode 0x00000024#32 = .error .reservedOpcode
      ∧ decode 0x00000000#32 = .error .reservedOpcode := by decide

theorem test_decodeTableWord : decodeTableWord 32 0x131 = some (.arpSetSrcMap .tx) ∧ decodeTableWord 16 0x10050 = some .rxPoll := by
  decide

/-! ### Well-formedness: each check refuses an ill-formed term -/

theorem test_wf_unknown_opcode : opcodeKnown 0x00000024#32 = false ∧ wordWf 0x00000024#32 = false := by decide

theorem test_wf_reserved_bits : reservedZero 0x00000220#32 = false ∧ wordWf 0x00000220#32 = false := by decide

theorem test_wf_buffer_bit : bufferBitAllowed 0x00000150#32 = false ∧ wordWf 0x00000150#32 = false := by decide

theorem test_wf_params :
    Params.default.wf = true ∧ { Params.default with rxBufSize := 63#16 }.wf = false
      ∧ { Params.default with txBufSize := 63#16 }.wf = false ∧ { Params.default with fragBufSize := 0#16 }.wf = false
      ∧ { Params.default with nFragSlots := 0#8 }.wf = false ∧ { Params.default with nFragSlots := 17#8 }.wf = false
      ∧ { Params.default with nIpAddrs := 0#8 }.wf = false ∧ { Params.default with nIpAddrs := 17#8 }.wf = false := by decide

theorem test_wf_memory : Memory.wf [(1, 0#8), (1, 1#8)] = false ∧ Memory.wf [(2, 0#8), (1, 1#8)] = false
    ∧ (Memory.write (Memory.write [] 5 1#8) 3 2#8).wf = true := by decide

/-- The memories at reset are in canonical form. -/
theorem test_reset_memories :
    State.reset.rxBuf.wf = true ∧ State.reset.txBuf.wf = true ∧ ∀ x ∈ State.reset.slots, x.data.wf = true := by decide

/-! ### One step per command (the ids are those of spec/95_test_vectors.md) -/

/-- X1 and X5. -/
theorem test_illegal_word :
    errWords (runWord 0x00 State.reset) = (0x00000102#32, 0#32) ∧ errWords (runWord 0x24 State.reset) = (0x00000102#32, 0x24#32) := by
  decide +kernel

/-- X7: the window check does not wrap. -/
theorem test_window_saturates :
    errWords (runWord 0x11 { State.reset with args := ops 0xFFFFFFFF#32 2#32 0#32 0#32 0#32 0#32 })
      = (0x00000202#32, 0xFFFFFFFF#32) := by decide +kernel

/-- K20. -/
theorem test_csum_clear : (runWord 0x10 { State.reset with csumAcc := 0x479E#16 }).csumAcc = 0#16 := by decide +kernel

/-- K3: the odd byte is the high byte. -/
theorem test_csum_bytes_odd : (runWord 0x11 (onRx (bytes 3 0x010203))).csumAcc = 0x0402#16 := by decide +kernel

/-- K2. -/
theorem test_csum_bytes_header : (runWord 0x11 (onRx h1)).csumAcc = 0xFFFF#16 := by decide +kernel

/-- K11 and K12. -/
theorem test_csum_word_carry :
    (runWord 0x12 { onTx 0#32 0x8000#32 0#32 0#32 0#32 with csumAcc := 0x8000#16 }).csumAcc = 1#16
      ∧ (runWord 0x12 { onTx 0#32 0x00000001#32 0#32 0#32 0#32 with csumAcc := 0xFFFF#16 }).csumAcc = 1#16 := by decide +kernel

/-- K13. -/
theorem test_csum_word_high_ignored : (runWord 0x12 (onTx 0#32 0xFFFF0000#32 0#32 0#32 0#32)).csumAcc = 0#16 := by
  decide +kernel

/-- K15. -/
theorem test_csum_pseudo :
    (runWord 0x13 (onTx 0#32 0xC0A80001#32 0xC0A800C7#32 0x005F0011#32 0#32)).csumAcc = 0x8289#16 := by decide +kernel

/-- K17. -/
theorem test_csum_pseudo_family :
    errWords (runWord 0x13 (onTx 0#32 0#32 0#32 0#32 3#32)) = (0x00000A02#32, 3#32) := by decide +kernel

/-- K6 and K21. -/
theorem test_csum_verify :
    (runWord 0x14 { State.reset with csumAcc := 0xFFFF#16 }).res.r0 = 1#32
      ∧ (runWord 0x14 { State.reset with ctrl := { medium := false, ipCsumEn := false, csumBypass := true } }).res.r0 = 0#32 := by
  decide +kernel

/-- E9. -/
theorem test_eth_parse_tagged :
    (runWord 0x20 (onRx (bytes 22 0x0200000000010200000000028100f064000000000000))).res
      = { r0 := 0x00001231#32, r1 := 0x64#32, r2 := 0x02000000#32, r3 := 1#32, r4 := 0x02000000#32, r5 := 2#32,
          r6 := 0#32, r7 := 0#32 } := by decide +kernel

/-- E6 and E12: the length boundary is strict; a short tagged header. -/
theorem test_eth_parse_edges :
    (runWord 0x20 (onRx (bytes 14 0x02000000000102000000000205dc))).res.r0 = 0x05DC0E34#32
      ∧ errWords (runWord 0x20 (onRx (bytes 17 0x0200000000010200000000028100006408))) = (0x00000302#32, 18#32) := by
  decide +kernel

/-- E20 and E21. -/
theorem test_eth_set_dst :
    (runWord 0x121 (onTx 64#32 0x02000000#32 0xABCD0002#32 0#32 0#32)).readBytes .tx 0 6 = bytes 6 0x020000000002
      ∧ errWords (runWord 0x121 (onTx 5#32 0#32 0#32 0#32 0#32)) = (0x00000202#32, 6#32) := by decide +kernel

/-- E22: bytes 6 to 11 and no other. -/
theorem test_eth_set_src :
    (runWord 0x122 (onTx 64#32 0x02000000#32 1#32 0#32 0#32)).txBuf
      = [(6, 2#8), (7, 0#8), (8, 0#8), (9, 0#8), (10, 0#8), (11, 1#8)] := by decide +kernel

/-- E14. -/
theorem test_eth_set_proto_qinq :
    (runWord 0x123 (onTx 64#32 0x08000002#32 0x00C80064#32 0#32 0#32)).readBytes .tx 12 10
      = bytes 10 0x81000064810000c80800 := by decide +kernel

/-- E17 and E18. -/
theorem test_eth_set_proto_errors :
    errWords (runWord 0x123 (onTx 64#32 5#32 0#32 0#32 0#32)) = (0x00000102#32, 5#32)
      ∧ errWords (runWord 0x123 (onTx 17#32 0x08000001#32 0#32 0#32 0#32)) = (0x00000202#32, 18#32) := by decide +kernel

/-- V13 and V3. -/
theorem test_vlan_strip :
    (runWord 0x28 { onRx (bytes 18 0x0200000000010200000000028100e00a0806) with vlanCfg := VlanCfg.ofWord 0x100A#32 }).res.r6
        = 0x00000001#32
      ∧ (runWord 0x28 { onRx (bytes 18 0x0200000000010200000000028100e00a0806) with vlanCfg := VlanCfg.ofWord 0x000A#32 }).res.r6
        = 0x00000200#32 := by decide +kernel

/-- A1. -/
theorem test_arp_parse :
    (runWord 0x30 (onRx req)).res
      = { r0 := 0x08000001#32, r1 := 0x00010406#32, r2 := 0x02000000#32, r3 := 2#32, r4 := 0xC0A80102#32, r5 := 0#32,
          r6 := 0#32, r7 := 0xC0A80101#32 } := by decide +kernel

/-- A3 and A8. -/
theorem test_arp_parse_errors :
    errWords (runWord 0x30 (onRx (req.take 9))) = (0x00000502#32, 28#32)
      ∧ errWords (runWord 0x30 (onRx (req.set 4 5#8))) = (0x00000602#32, 5#32) := by decide +kernel

/-- A16: the writes end at 18, and OPER stays as it was. -/
theorem test_arp_set_src_map :
    (runWord 0x131 (onTx 18#32 0x02000000#32 1#32 0xC0A80101#32 0#32)).txBuf.map (fun c => c.2)
      = bytes 16 0x000108000604020000000001c0a80101 := by decide +kernel

/-- A22: the offset uses the window's own HLEN. -/
theorem test_arp_set_tgt_map_unknown :
    (runWord 0x32 { onRx (req.set 4 0#8) with args := ops 0#32 28#32 0#32 0x00010000#32 0xC0A80163#32 0#32 }).readBytes .rx 12 4
      = bytes 4 0xC0A80163 := by decide +kernel

/-- A17: nothing is written before the check. -/
theorem test_arp_set_tgt_map_short :
    errWords (runWord 0x132 (onTx 27#32 0#32 0#32 0#32 0#32)) = (0x00000202#32, 28#32)
      ∧ (runWord 0x132 (onTx 27#32 0#32 0#32 0#32 0#32)).txBuf = [] := by decide +kernel

/-- A23 and A24. -/
theorem test_arp_set_oper :
    (runWord 0x133 (onTx 8#32 0xFFFF0002#32 0#32 0#32 0#32)).txBuf = [(6, 0#8), (7, 2#8)]
      ∧ errWords (runWord 0x133 (onTx 7#32 0#32 0#32 0#32 0#32)) = (0x00000202#32, 8#32) := by decide +kernel

/-- I11. -/
theorem test_ipv4_parse :
    ((runWord 0x40 (onRx (bytes 20 0x4500001400011fff4011d785c0a80102c0a80101))).res.r1,
      (runWord 0x40 (onRx (bytes 20 0x4500001400011fff4011d785c0a80102c0a80101))).res.r2) = (0x04114000#32, 0xFFF80001#32) := by
  decide +kernel

/-- I4: Malformed before Truncated. -/
theorem test_ipv4_parse_malformed :
    errWords (runWord 0x40 (onRx (bytes 24 (0x46000014 * 256 ^ 20)))) = (0x00000802#32, 0x00180014#32) := by decide +kernel

/-- Q8: a slot claimed and freed in one command. -/
theorem test_ipv4_input_single :
    let t := runWord 0x41 (onRx (bytes 28 0x4500001c004400004011f739c0a80102c0a801010101010101010101))
    t.res.r0 = 0x00110003#32 ∧ t.res.r1 = 0x00440008#32 ∧ fragStatReg t 0 = 0x00440000#32
      ∧ t.history = [.deliver 17#8 (List.replicate 8 1#8)] := by decide +kernel

/-- Q9: no slot is claimed on overflow. -/
theorem test_ipv4_input_overflow :
    let t := runWord 0x41 (onRx (bytes 36 (0x4500002400453fff4011b731c0a80102c0a80101 * 256 ^ 16)))
    t.res.r0 = 0xFF110A01#32 ∧ t.res.r1 = 0x00450000#32 ∧ fragStatReg t 0 = 0#32 := by decide +kernel

/-- Slots 0 and 2 are held by the idents 0x1234 and 7. -/
def heldSlots : List Slot :=
  [{ valid := true, ident := 0x1234#16, data := [] }, Slot.afterReset, { valid := true, ident := 7#16, data := [] }, Slot.afterReset]

/-- Q19. -/
theorem test_frag_flush_all :
    let t := runWord 0x42 { onTx 0#32 0xFF#32 0#32 0#32 0#32 with slots := heldSlots }
    t.res.r0 = 2#32 ∧ fragStatReg t 0 = 0x12340000#32 ∧ fragStatReg t 2 = 0x00070000#32 := by decide +kernel

/-- Q21 and Q22. -/
theorem test_frag_flush_one :
    errWords (runWord 0x42 (onTx 0#32 4#32 0#32 0#32 0#32)) = (0x00000102#32, 4#32)
      ∧ (runWord 0x42 { onTx 0#32 0xABCDEF00#32 0#32 0#32 0#32 with slots := heldSlots }).res.r0 = 1#32 := by decide +kernel

/-- N2: the table is sorted. -/
theorem test_addr_add_sorted :
    let t := runWord 0x48 { onTx 0#32 0x0A000001#32 8#32 0#32 0#32 with addrs := [{ addr := 0xC0A80101#32, plen := 24#6 }] }
    t.res.r0 = 2#32 ∧ ipAddrReg t 0 = 0x0A000001#32 ∧ ipPrefixReg t 0 = 8#32 ∧ ipAddrReg t 1 = 0xC0A80101#32 := by decide +kernel

/-- N7. -/
theorem test_addr_add_prefix : errWords (runWord 0x48 (onTx 0#32 0xAC100001#32 33#32 0#32 0#32)) = (0x00000E02#32, 33#32) := by
  decide +kernel

/-- N10 and N11. -/
theorem test_addr_del :
    (runWord 0x49 { onTx 0#32 0xC0A80101#32 24#32 0#32 0#32 with addrs := [{ addr := 0xC0A80101#32, plen := 24#6 }] }).addrs = []
      ∧ errWords (runWord 0x49 (onTx 0#32 0xC0A80101#32 40#32 0#32 0#32)) = (0x00000D02#32, 0xC0A80101#32) := by decide +kernel

/-- The example of R233: no frame. -/
theorem test_rx_poll_no_frame :
    (runWord 0x50 State.reset).res.r0 = 0xFF000000#32 ∧ (runWord 0x50 State.reset).status.toWord = 0#32 := by decide +kernel

/-- P3: the frame that answers REQF, for the answers OK and OK of the two ports. -/
theorem test_rx_poll_reply :
    let t := rxPollWith .ok .ok (pending (reqf 0xC0A80101))
    t.res.r0 = 0xFF000002#32 ∧ t.res.r1 = 42#32 ∧ t.rxPending = false
      ∧ t.readBytes .tx 0 42 = bytes 14 0x0200000000020200000000010806 ++ rep := by decide +kernel

/-! ### The host interface -/

/-- The state a step leaves. -/
def stepped (s : State) : State :=
  match step s with
  | .next t => t
  | .fault _ => s
  | .refused _ => s

/-- The fault a step ends in, if any. -/
def faultOf (s : State) : Option Fault :=
  match step s with
  | .next _ => none
  | .fault f => some f
  | .refused _ => none

/-- The default parameters with 66-byte buffers. -/
def params66 : Params := { Params.default with rxBufSize := 66#16, txBufSize := 66#16 }

/-- A 32-bit read is big-endian; a byte write lands at its address; slot memory is read-only (20_memory.md R61, R68). -/
theorem test_host_accesses :
    (stepped { onRx (bytes 4 0x01020304) with inbox := [.read .word 0x10000#32] }).busData = some 0x01020304#32
    ∧ (stepped (hostNext (.write .byte 0x20002#32 0xAB#32))).txBuf = [(2, 0xAB#8)]
    ∧ (stepped (hostNext (.write .byte 0x100000#32 0xAB#32))).slots = State.reset.slots := by decide +kernel

/-- The four bus errors (20_memory.md R64). -/
theorem test_bus_errors :
    faultOf (hostNext (.read .word 0x28#32)) = some .busUnmapped
    ∧ faultOf (hostNext (.read .half 0x10000#32)) = some .busWidth
    ∧ faultOf (hostNext (.read .word 0x10002#32)) = some .busMisaligned
    ∧ faultOf { hostNext (.read .word 0x10040#32) with params := params66 } = some .busCrossesEnd := by decide +kernel

/-- `mac.set` of the assembler reaches MAC_HI and MAC_LO (30_encoding.md R89). -/
theorem test_assemble_mac :
    assemble Params.default [.macSet 0x020000000001#48]
      = [.write .word 0x064#32 0x02000000#32, .write .word 0x068#32 0x00000001#32] := by decide

/-! ### Witnesses: for each statement with hypotheses, a state and operands that meet them

Where the clauses of a statement split on an input, each clause has its own state, at an edge of its range. -/

theorem exec_ok (i : Instr) (s : State) : ∃ t, exec i s = .next t := ⟨_, exec_after i s⟩

/-- The three ways a word is illegal (and none is a command's word). -/
theorem witness_IllegalWordsEndWithIllegal :
    (∀ c : Word, (hostNext (cmdWrite Params.default c)).inbox = cmdWrite Params.default c :: [])
    ∧ (∀ i, decode 0x00000024#32 ≠ .ok i) ∧ opcodeWindow 0x24#8 = none
    ∧ (∀ i, decode 0x00000220#32 ≠ .ok i) ∧ (0x00000220#32).extractLsb' 9 23 ≠ 0#23
    ∧ (∀ i, decode 0x00000150#32 ≠ .ok i) ∧ opcodeWindow 0x50#8 = some false := by
  refine ⟨fun _ => rfl, ?_, by decide, ?_, by decide, ?_, by decide⟩ <;> intro i <;> cases i with
  | _ => first | decide | (rename_i b; cases b <;> decide)

theorem witness_StepRunsDecodedCommand :
    (hostNext (cmdWrite Params.default 0x111#32)).inbox = cmdWrite Params.default 0x111#32 :: []
      ∧ decode 0x111#32 = .ok (.csumBytes .tx) ∧ State.reset.inbox = [] := by decide

/-- A state with two equal reads waiting. -/
def twoReads : State := { onRx [0x5A#8] with inbox := [.read .byte 0x10000#32, .read .byte 0x10000#32] }

theorem witness_ReadsHaveNoSideEffect :
    twoReads.inbox = .read .byte 0x10000#32 :: .read .byte 0x10000#32 :: []
      ∧ step twoReads = .next (stepped twoReads) ∧ step (stepped twoReads) = .next (stepped (stepped twoReads))
      ∧ (stepped twoReads).busData = some 0x5A#32 := ⟨rfl, rfl, rfl, by decide +kernel⟩

/-- A state in use, whose next host operation reads FRAG_STAT[0], and one that reads the last IP_PREFIX. -/
theorem witness_ReadsHaveNoSideEffect_registers :
    State.reset.params.wf = true ∧ RegisterRow Params.default 0x100 (.fragStat 0) ∧ RegisterRow Params.default 0x09C (.ipPrefix 3)
      ∧ RegisterRow Params.default 0x060 .csumAcc
      ∧ (0x100#32).toNat = Params.default.base.toNat + 0x100 ∧ (0x09C#32).toNat = Params.default.base.toNat + 0x09C
      ∧ (hostNext (.read .word 0x100#32)).inbox = .read .word 0x100#32 :: [] :=
  ⟨by decide, .inr (.inr ⟨0, by decide, by decide, rfl⟩), .inr (.inl ⟨3, by decide, .inr ⟨by decide, rfl⟩⟩), .inl (by decide),
    by decide, by decide, by decide⟩

/-- Offset `n` reaches nothing: no register row and no byte of a space, or at the wrong width. -/
theorem not_served {p : Params} {w : Width} {addr : Word} {n : Nat} (h : addr.toNat = p.base.toNat + n)
    (hr : w = .word → n % 4 = 0 → ∀ r, ¬ RegisterRow p n r)
    (hs : ∀ sp i, n = spaceStart sp + i → i < spaceBytes p sp → w = .half ∨ (w = .word ∧ (n % 4 ≠ 0 ∨ spaceBytes p sp < i + 4))) :
    ¬ Served p w addr := by
  rintro ⟨off, ho, ⟨hw, h4, r, hrow⟩ | ⟨sp, i, hoff, hi, hw⟩⟩
  · obtain rfl : off = n := by omega
    exact hr hw h4 r hrow
  · obtain rfl : off = n := by omega
    rcases hs sp i hoff hi with rfl | ⟨rfl, h4 | h4⟩ <;> rcases hw with hw | ⟨hw, h4', h5⟩ <;> first | omega | (cases hw; done)

/-- No row of the register map is at this offset. -/
theorem no_row {n : Nat} (h : n = 0x028 ∨ n = 0x0A0 ∨ n = 0x110 ∨ 0x14C ≤ n) (r : Reg) : ¬ RegisterRow Params.default n r := by
  have h4 : Params.default.nIpAddrs.toNat = 4 ∧ Params.default.nFragSlots.toNat = 4 := by decide
  rintro (hr | ⟨i, hi, hr | hr⟩ | ⟨k, hk, hr, -⟩)
  · simp only [registerRows, List.mem_cons, Prod.mk.injEq, List.not_mem_nil, or_false] at hr
    omega
  all_goals omega

/-- Register offsets no row names, one of them IP_ADDR[4] and one FRAG_STAT[4]; the gap's first and last word; the first byte
past RX_BUF, TX_BUF, slot 0 and slot 3. -/
theorem witness_UnservedAccessesFault :
    (∀ n ∈ [0x028, 0x0A0, 0x110, 0x1000, 0xFFFC], ¬ Served Params.default .word (BitVec.ofNat 32 n))
    ∧ (∀ n ∈ [0x0FFF, 0x10800, 0x20800, 0x10FFFF, 0x13FFFF, 0x140000], ¬ Served Params.default .byte (BitVec.ofNat 32 n))
    ∧ ∀ op, (hostNext op).inbox = op :: [] := by
  have size : ∀ sp, spaceBytes Params.default sp
      = match sp with
        | .rx => 2048
        | .tx => 2048
        | .slot k => if k < 4 then 65535 else 0 := by intro sp; cases sp <;> rfl
  refine ⟨?_, ?_, fun _ => rfl⟩
  · intro n hn
    simp only [List.mem_cons, List.not_mem_nil, or_false] at hn
    refine not_served (n := n) (by rcases hn with rfl | rfl | rfl | rfl | rfl <;> decide) (fun _ _ r => no_row (by omega) r) ?_
    intro sp i h hi
    rw [size] at hi
    cases sp with
    | rx => simp only [spaceStart] at h; simp only at hi; omega
    | tx => simp only [spaceStart] at h; simp only at hi; omega
    | slot k => simp only [spaceStart] at h; omega
  · intro n hn
    simp only [List.mem_cons, List.not_mem_nil, or_false] at hn
    refine not_served (n := n) (by rcases hn with rfl | rfl | rfl | rfl | rfl | rfl <;> decide) (fun h => nomatch h) ?_
    intro sp i h hi
    rw [size] at hi
    cases sp with
    | rx => simp only [spaceStart] at h; simp only at hi; omega
    | tx => simp only [spaceStart] at h; simp only at hi; omega
    | slot k => simp only [spaceStart] at h; simp only at hi; split at hi <;> omega

/-- The default parameters at base 0x1000. -/
def paramsBase : Params := { Params.default with base := 0x1000#32 }

/-- An address below APF_BASE; a 16-bit and a misaligned access; a 32-bit access across the end of a 66-byte RX_BUF and of a slot. -/
theorem witness_UnservedAccessesFault_shapes :
    ¬ Served paramsBase .word 0x0FFC#32 ∧ ¬ Served Params.default .half 0x10000#32 ∧ ¬ Served Params.default .word 0x10002#32
    ∧ ¬ Served params66 .word 0x10040#32 ∧ ¬ Served Params.default .word 0x10FFFC#32 := by
  refine ⟨?_, ?_, ?_, ?_, ?_⟩
  · rintro ⟨off, h, -⟩
    have : (0x0FFC#32).toNat = 0x0FFC ∧ paramsBase.base.toNat = 0x1000 := by decide
    omega
  · exact not_served (n := 0x10000) (by decide) (fun h => nomatch h) fun _ _ _ _ => .inl rfl
  · exact not_served (n := 0x10002) (by decide) (fun _ h => absurd h (by decide)) fun _ _ _ _ => .inr ⟨rfl, .inl (by decide)⟩
  · refine not_served (n := 0x10040) (by decide) (fun _ _ r => no_row (by omega) r) ?_
    intro sp i h hi
    refine .inr ⟨rfl, .inr ?_⟩
    cases sp <;> simp only [spaceStart] at h
    · have : spaceBytes params66 .rx = 66 := rfl
      omega
    all_goals omega
  · refine not_served (n := 0x10FFFC) (by decide) (fun _ _ r => no_row (by omega) r) ?_
    intro sp i h hi
    refine .inr ⟨rfl, .inr ?_⟩
    have : Params.default.fragBufSize.toNat = 65535 := rfl
    cases sp with
    | rx => simp only [spaceStart] at h; have : spaceBytes Params.default .rx = 2048 := rfl; omega
    | tx => simp only [spaceStart] at h; have : spaceBytes Params.default .tx = 2048 := rfl; omega
    | slot k =>
      simp only [spaceStart] at h
      simp only [spaceBytes] at hi ⊢
      split at hi <;> rename_i hk
      · rw [if_pos hk]; omega
      · omega

/-- Served at the edges: ID, the last word of RX_BUF, the last byte of slot 3 and its last whole word. -/
theorem witness_UnservedAccessesFault_served :
    Served Params.default .word 0x148#32 ∧ Served Params.default .word 0x107FC#32 ∧ Served Params.default .byte 0x13FFFE#32
    ∧ Served Params.default .word 0x13FFF8#32 :=
  ⟨⟨0x148, by decide, .inl ⟨rfl, by decide, .id, .inl (by decide)⟩⟩,
    ⟨0x107FC, by decide, .inr ⟨.rx, 2044, by decide, by decide, .inr ⟨rfl, by decide, by decide⟩⟩⟩,
    ⟨0x13FFFE, by decide, .inr ⟨.slot 3, 65534, by decide, by decide, .inl rfl⟩⟩,
    ⟨0x13FFF8, by decide, .inr ⟨.slot 3, 65528, by decide, by decide, .inr ⟨rfl, by decide, by decide⟩⟩⟩⟩

/-- The last byte of RX_BUF, of TX_BUF and of slot 3's memory. -/
theorem witness_HostByteAccess :
    ((0x000107FF#32).toNat = Params.default.base.toNat + spaceStart .rx + 2047 ∧ 2047 < spaceBytes Params.default .rx)
    ∧ ((0x000207FF#32).toNat = Params.default.base.toNat + spaceStart .tx + 2047 ∧ 2047 < spaceBytes Params.default .tx)
    ∧ ((0x0013FFFE#32).toNat = Params.default.base.toNat + spaceStart (.slot 3) + 65534
        ∧ 65534 < spaceBytes Params.default (.slot 3)) := by decide

theorem witness_HostWordAccessIsBigEndian :
    ((0x000107FC#32).toNat = Params.default.base.toNat + spaceStart .rx + 2044 ∧ 2044 % 4 = 0
        ∧ 2044 + 4 ≤ spaceBytes Params.default .rx)
    ∧ ((0x00020000#32).toNat = Params.default.base.toNat + spaceStart .tx + 0 ∧ 0 % 4 = 0
        ∧ 0 + 4 ≤ spaceBytes Params.default .tx)
    ∧ ((0x0013FFF8#32).toNat = Params.default.base.toNat + spaceStart (.slot 3) + 65528 ∧ 65528 % 4 = 0
        ∧ 65528 + 4 ≤ spaceBytes Params.default (.slot 3)) := by decide

/-- A writable register, a read-only one, and the last IP_PREFIX. -/
theorem witness_RegisterWriteReadsBack :
    (RegisterRow Params.default 0x00C .ctrl ∧ (0x00C#32).toNat = Params.default.base.toNat + 0x00C ∧ Reg.ctrl ≠ .cmd)
    ∧ (RegisterRow Params.default 0x004 .status ∧ (0x004#32).toNat = Params.default.base.toNat + 0x004 ∧ Reg.status ≠ .cmd)
    ∧ (RegisterRow Params.default 0x09C (.ipPrefix 3) ∧ (0x09C#32).toNat = Params.default.base.toNat + 0x09C)
    ∧ Params.default.wf = true
    ∧ (hostNext (.write .word 0x00C#32 0xFFFFFFFF#32)).inbox = .write .word 0x00C#32 0xFFFFFFFF#32 :: [] :=
  ⟨⟨.inl (by decide), by decide, by decide⟩, ⟨.inl (by decide), by decide, by decide⟩,
    ⟨.inr (.inl ⟨3, by decide, .inr ⟨by decide, rfl⟩⟩), by decide⟩, by decide, by decide⟩

/-- Both ends of the ranges of N_IP_ADDRS and N_FRAG_SLOTS. -/
theorem witness_RegisterMapOffsets :
    Params.default.wf = true ∧ { Params.default with nIpAddrs := 16#8, nFragSlots := 16#8 }.wf = true
      ∧ { Params.default with nIpAddrs := 1#8, nFragSlots := 1#8 }.wf = true := by decide

theorem witness_PlatformResetRestoresResetValues :
    { pending h1 with inbox := [.reset] }.inbox = .reset :: [] := rfl

/-- A state after reset in which the host and the commands have left something in every part. -/
def inUse : State :=
  { pending h1 with
    status := { busy := false, err := true, errCode := 0x0F#8 }, errInfo := 1#32, txLen := 50#16, txBuf := [(2047, 1#8)],
    slots := [{ valid := true, ident := 7#16, data := [(0, 1#8), (65534, 2#8)] },
      { valid := true, ident := 8#16, data := [] }, { valid := false, ident := 7#16, data := [] }, Slot.afterReset],
    inbox := [cmdWrite Params.default 0x50#32] }

theorem inUse_sound : SoundState inUse where
  params := by decide
  status := by unfold statusSound; decide
  table := by unfold tableSound; decide +kernel
  slots := by unfold slotsSound slotsDistinct memSound; decide +kernel
  rx := by unfold memSound; decide +kernel
  tx := by unfold memSound; decide +kernel
  reply := by decide

theorem witness_StepKeepsSound : SoundState inUse ∧ ∃ t, step inUse = .next t := ⟨inUse_sound, exec_ok .rxPoll _⟩

theorem witness_ParameterRegisters : ∃ t, step inUse = .next t := exec_ok .rxPoll _

theorem witness_HistoryOnlyGrows :
    (∃ t, step inUse = .next t) ∧ ∀ rest, inUse.inbox ≠ .reset :: rest :=
  ⟨exec_ok .rxPoll _, by intro rest h; cases h⟩

/-- A window of RX_BUF that ends one byte too far. -/
def overWindow : State := { State.reset with args := ops 1#32 2048#32 0#32 0#32 0#32 0#32 }

theorem witness_ErrorsArePrecise :
    Instr.ethParse .rx ≠ .rxPoll ∧ exec (.ethParse .rx) overWindow = .next (after (.ethParse .rx) overWindow)
      ∧ (after (.ethParse .rx) overWindow).status.err = true := ⟨nofun, exec_after _ _, by decide +kernel⟩

theorem witness_PollErrorSurvivors :
    exec .rxPoll (pending [1#8]) = .next (after .rxPoll (pending [1#8]))
      ∧ (after .rxPoll (pending [1#8])).status.err = true
      ∧ (after .rxPoll (pending [1#8])).status.errCode ≠ 0x0F#8 := ⟨exec_after _ _, by decide +kernel, by decide +kernel⟩

/-- One command of each case, and an error of each. -/
theorem witness_UnnamedResultsKeepTheirValues :
    exec (.csumBytes .rx) (onRx h1) = .next (after (.csumBytes .rx) (onRx h1))
      ∧ exec .csumVerify (onRx h1) = .next (after .csumVerify (onRx h1))
      ∧ exec (.ipv4Input .rx) (onRx frag1) = .next (after (.ipv4Input .rx) (onRx frag1))
      ∧ exec (.ethParse .rx) (onRx h1) = .next (after (.ethParse .rx) (onRx h1))
      ∧ exec (.csumBytes .rx) overWindow = .next (after (.csumBytes .rx) overWindow)
      ∧ (after (.csumBytes .rx) overWindow).status.err = true :=
  ⟨exec_after _ _, exec_after _ _, exec_after _ _, exec_after _ _, exec_after _ _, by decide +kernel⟩

theorem witness_OnlyChecksumCommandsTouchAcc :
    Instr.rxPoll ≠ .csumClear ∧ (∀ b, Instr.rxPoll ≠ .csumBytes b) ∧ Instr.rxPoll ≠ .csumWord ∧ Instr.rxPoll ≠ .csumPseudo
      ∧ Instr.rxPoll ≠ .csumVerify ∧ exec .rxPoll inUse = .next (after .rxPoll inUse) :=
  ⟨nofun, nofun, nofun, nofun, nofun, exec_after _ _⟩

/-- A window command and a command without a window; a byte inside, and the bytes next to, a window of RX_BUF. -/
theorem witness_CommandsStayInsideTheirWindow :
    (exec (.ethSetDst .tx) (onTx 64#32 1#32 2#32 3#32 4#32) = .next (after (.ethSetDst .tx) (onTx 64#32 1#32 2#32 3#32 4#32))
      ∧ (Instr.ethSetDst .tx).buf? = some .tx
      ∧ ¬ (spaceOf .tx = spaceOf .tx ∧ winBase (onTx 64#32 1#32 2#32 3#32 4#32) ≤ 64
        ∧ 64 < winBase (onTx 64#32 1#32 2#32 3#32 4#32) + winLen (onTx 64#32 1#32 2#32 3#32 4#32)))
    ∧ exec .fragFlush inUse = .next (after .fragFlush inUse) ∧ Instr.fragFlush.buf? = none
    ∧ Instr.ethSetDst .tx ∉
        [Instr.ethSetDst .rx, .ethSetSrc .rx, .ethSetProto .rx, .arpSetSrcMap .rx, .arpSetTgtMap .rx, .arpSetOper .rx] :=
  ⟨⟨exec_after _ _, rfl, by decide⟩, exec_after _ _, rfl, by decide⟩

theorem witness_WhoWritesWhat :
    exec (.arpParse .rx) (onRx req) = .next (after (.arpParse .rx) (onRx req)) ∧ Instr.arpParse .rx ≠ .rxPoll
      ∧ Instr.arpParse .rx ≠ .addrAdd ∧ Instr.arpParse .rx ≠ .addrDel ∧ Instr.arpParse .rx ≠ .fragFlush
      ∧ ∀ b, Instr.arpParse .rx ≠ .ipv4Input b := ⟨exec_after _ _, nofun, nofun, nofun, nofun, nofun⟩

theorem witness_WindowOutsideSpaceIsBounds :
    (Instr.vlanStrip .rx).buf? = some .rx
      ∧ spaceBytes overWindow.params (spaceOf .rx) < overWindow.args.a0.toNat + overWindow.args.a1.toNat := by decide

theorem witness_OnesComplementAddition : (0xFFFF#16 : Half) ≠ 0#16 := by decide

theorem witness_ChecksumComposes : (bytes 2 0x0102).length % 2 = 0 := by decide

theorem witness_FilledHeaderVerifies : (h0.take 10).length % 2 = 0 ∧ h0.take 10 ++ [0#8, 0#8] ++ h0.drop 12 = h0 := by
  decide +kernel

/-- A window that ends at the end of RX_BUF, an empty one there, and one that ends a byte later. -/
theorem witness_CsumBytesAddsWindow :
    WindowFits .rx { State.reset with args := ops 0#32 2048#32 0#32 0#32 0#32 0#32 }
      ∧ WindowFits .rx { State.reset with args := ops 2048#32 0#32 0#32 0#32 0#32 0#32 } ∧ ¬ WindowFits .rx overWindow := by
  and_intros
  all_goals (try unfold WindowFits); decide +kernel

theorem witness_CsumPseudoAddsPseudoHeader :
    ((onTx 0#32 0#32 0#32 0#32 4#32).args.a5.extractLsb' 0 2 = 0#2)
      ∧ (onTx 0#32 0#32 0#32 0#32 1#32).args.a5.extractLsb' 0 2 ≠ 0#2 := by decide

/-- The first 12 bytes of an Ethernet frame, followed by the given bytes. -/
def frame (bs : List Byte) : List Byte := bytes 12 0x020000000001020000000002 ++ bs

/-- A window on a frame fits, and the window's bytes are the frame's. -/
def OnFrame (bs : List Byte) : Prop := WindowFits .rx (onRx (frame bs)) ∧ winBytes .rx (onRx (frame bs)) = frame bs

/-- Each shortness at its longest window, and each header shape at its shortest, with its edge values of the length field. -/
theorem witness_EthParseReportsHeader :
    (OnFrame [0x81#8] ∧ EthTooShort (frame [0x81#8]) 14)
    ∧ (OnFrame (bytes 5 0x8100000008) ∧ EthTooShort (frame (bytes 5 0x8100000008)) 18)
    ∧ (OnFrame (bytes 9 0x810000008100000008) ∧ EthTooShort (frame (bytes 9 0x810000008100000008)) 22)
    ∧ (OnFrame (bytes 2 0x0806) ∧ EthShape (frame (bytes 2 0x0806)) 0#3 1#2 14 0x0806#16 0#12 0#12)
    ∧ (OnFrame (bytes 2 0x05DB) ∧ EthShape (frame (bytes 2 0x05DB)) 3#3 3#2 14 0x05DB#16 0#12 0#12)
    ∧ (OnFrame (bytes 2 0x05DC) ∧ EthShape (frame (bytes 2 0x05DC)) 4#3 3#2 14 0x05DC#16 0#12 0#12)
    ∧ (OnFrame (bytes 6 0x8100FFFF86DD) ∧ EthShape (frame (bytes 6 0x8100FFFF86DD)) 1#3 2#2 18 0x86DD#16 0xFFF#12 0#12)
    ∧ (OnFrame (bytes 10 0x8100E0018100F0020800)
        ∧ EthShape (frame (bytes 10 0x8100E0018100F0020800)) 2#3 0#2 22 0x0800#16 1#12 2#12) := by
  and_intros
  all_goals (try unfold OnFrame); (try unfold WindowFits); (try unfold EthTooShort); (try unfold EthShape); decide +kernel

/-- The lengths 5 and 6, 11 and 12 of the two clauses of each command. -/
theorem witness_EthSetAddressesStore :
    WindowFits .tx (onTx 5#32 1#32 2#32 3#32 4#32) ∧ WindowFits .tx (onTx 12#32 1#32 2#32 3#32 4#32)
      ∧ winLen (onTx 5#32 1#32 2#32 3#32 4#32) < 6 ∧ 6 ≤ winLen (onTx 6#32 1#32 2#32 3#32 4#32)
      ∧ winLen (onTx 11#32 1#32 2#32 3#32 4#32) < 12 ∧ 12 ≤ winLen (onTx 12#32 1#32 2#32 3#32 4#32) := by
  and_intros
  all_goals (try unfold WindowFits); decide +kernel

/-- PKIND 5; QINQ in 21 bytes; QINQ in 22 bytes. -/
theorem witness_EthSetProtoStoresHeader :
    (WindowFits .tx (onTx 22#32 0x08000005#32 0#32 0#32 0#32) ∧ 5 ≤ ((0x08000005#32).extractLsb' 0 3).toNat)
    ∧ (WindowFits .tx (onTx 21#32 0x08000002#32 0#32 0#32 0#32) ∧ winLen (onTx 21#32 0x08000002#32 0#32 0#32 0#32) < 22
        ∧ (protoHeader 2#3 0x0800#16 0#12 0#12).1 = 22)
    ∧ (WindowFits .tx (onTx 22#32 0x08000002#32 0#32 0#32 0#32) ∧ 22 ≤ winLen (onTx 22#32 0x08000002#32 0#32 0#32 0#32)) := by
  and_intros
  all_goals (try unfold WindowFits); decide +kernel

/-- The operands of one PKIND and EtherType, with VID0 = 1 and VID1 = 2, on 22 bytes of TX_BUF. -/
def proto (a2 : Word) : State := onTx 22#32 a2 0x00020001#32 0#32 0#32

/-- Each of the five kinds, LENGTH and UNKNOWN at the edge between them. -/
theorem witness_TaggingRoundTrip :
    (∀ a2, WindowFits .tx (proto a2) ∧ 22 ≤ winLen (proto a2)
      ∧ exec (.ethSetProto .tx) (proto a2) = .next (after (.ethSetProto .tx) (proto a2)))
    ∧ (2#3 = (0x81000002#32).extractLsb' 0 3 ∧ 0x8100#16 = (0x81000002#32).extractLsb' 16 16)
    ∧ (1#3 = (0x08000001#32).extractLsb' 0 3 ∧ 0x0800#16 = (0x08000001#32).extractLsb' 16 16)
    ∧ (0#3 = (0x86DD0000#32).extractLsb' 0 3 ∧ 0x86DD#16 = (0x86DD0000#32).extractLsb' 16 16)
    ∧ (3#3 = (0x05DB0003#32).extractLsb' 0 3 ∧ 0x05DB#16 = (0x05DB0003#32).extractLsb' 16 16 ∧ (0x05DB#16).toNat < 0x05DC)
    ∧ (4#3 = (0x05DC0004#32).extractLsb' 0 3 ∧ 0x05DC#16 = (0x05DC0004#32).extractLsb' 16 16 ∧ 0x05DC ≤ (0x05DC#16).toNat)
    ∧ 1#12 = (0x00020001#32).extractLsb' 0 12 ∧ 2#12 = (0x00020001#32).extractLsb' 16 12 := by
  refine ⟨fun a2 => ⟨?_, ?_, exec_after _ _⟩, by decide, by decide, by decide, by decide, by decide, by decide, by decide⟩
  · show 22 ≤ 2048; decide
  · show 22 ≤ 22; decide

/-- A tagged and an untagged frame (the other shapes are those of `witness_EthParseReportsHeader`), and a short one. -/
theorem witness_VlanStripReportsPayload :
    (OnFrame (bytes 6 0x8100E00A0806) ∧ EthShape (frame (bytes 6 0x8100E00A0806)) 1#3 1#2 18 0x0806#16 0x00A#12 0#12
      ∧ vlanReason (VlanCfg.ofWord 0x100A#32) 1#3 0x00A#12 0#12 = 0x00#8
      ∧ vlanReason (VlanCfg.ofWord 0x000A#32) 1#3 0x00A#12 0#12 = 0x02#8)
    ∧ (OnFrame (bytes 2 0x0800) ∧ EthShape (frame (bytes 2 0x0800)) 0#3 0#2 14 0x0800#16 0#12 0#12)
    ∧ (OnFrame [0x08#8] ∧ EthTooShort (frame [0x08#8]) 14) := by
  and_intros
  all_goals (try unfold OnFrame); (try unfold WindowFits); (try unfold EthTooShort); (try unfold EthShape); decide +kernel

/-- The window of `bs` in RX_BUF fits and holds `bs`. -/
def OnPacket (bs : List Byte) : Prop := WindowFits .rx (onRx bs) ∧ winBytes .rx (onRx bs) = bs

/-- Each error of ARP_PARSE, at 7 and 27 bytes, and packets with known and with unknown types. -/
theorem witness_ArpParseReportsPacket :
    (OnPacket (req.take 7) ∧ (req.take 7).length < 8)
    ∧ (OnPacket (req.take 27) ∧ (req.take 27).length < 8 + 2 * 6 + 2 * 4)
    ∧ (OnPacket (req.set 4 5#8) ∧ rd16 (req.set 4 5#8) 0 = 1#16 ∧ byteAt (req.set 4 5#8) 4 = 5#8)
    ∧ (OnPacket (req.set 5 3#8) ∧ rd16 (req.set 5 3#8) 2 = 0x0800#16 ∧ byteAt (req.set 5 3#8) 5 = 3#8)
    ∧ (OnPacket req ∧ req.length = 28 ∧ rd16 req 0 = 1#16 ∧ rd16 req 2 = 0x0800#16)
    ∧ (OnPacket (bytes 8 0x0002080100000001) ∧ byteAt (bytes 8 0x0002080100000001) 4 = 0#8) := by
  and_intros
  all_goals (try unfold OnPacket); (try unfold WindowFits); decide +kernel

/-- The operands of an ARP set command, on `n` bytes of RX_BUF that hold REQ. -/
def arpSet (n a3 : Word) : State := { onRx req with args := ops 0#32 n 0x02000000#32 a3 0xC0A80101#32 0x12345678#32 }

/-- Too short for the fixed part; one byte short; exactly long enough, with both types known and with both unknown. -/
theorem witness_ArpSetMapsStore :
    (WindowFits .rx (arpSet 7#32 1#32) ∧ (winBytes .rx (arpSet 7#32 1#32)).length = 7)
    ∧ (WindowFits .rx (arpSet 17#32 1#32) ∧ (winBytes .rx (arpSet 17#32 1#32)).length = 17)
    ∧ (WindowFits .rx (arpSet 18#32 1#32) ∧ (winBytes .rx (arpSet 18#32 1#32)).length = 18)
    ∧ (WindowFits .rx (arpSet 28#32 1#32) ∧ (winBytes .rx (arpSet 28#32 1#32)).length = 28)
    ∧ (WindowFits .rx (arpSet 8#32 0x00030001#32) ∧ (winBytes .rx (arpSet 8#32 0x00030001#32)).length = 8)
    ∧ (arpSet 18#32 1#32).args.a3.getLsbD 16 = false ∧ (arpSet 18#32 1#32).args.a3.getLsbD 17 = false
    ∧ (arpSet 8#32 0x00030001#32).args.a3.getLsbD 16 = true ∧ (arpSet 8#32 0x00030001#32).args.a3.getLsbD 17 = true := by
  and_intros
  all_goals (try unfold WindowFits); decide +kernel

theorem witness_ArpSetOperStores :
    WindowFits .tx (onTx 7#32 1#32 0#32 0#32 0#32) ∧ winLen (onTx 7#32 1#32 0#32 0#32 0#32) < 8
      ∧ WindowFits .tx (onTx 8#32 1#32 0#32 0#32 0#32) ∧ 8 ≤ winLen (onTx 8#32 1#32 0#32 0#32 0#32) := by
  and_intros
  all_goals (try unfold WindowFits); decide +kernel

/-- The second pair of operands. -/
def otherArgs : Args := ops 0#32 28#32 0x0A0B0C0D#32 0x0E0F#32 0x0A000001#32 0#32

theorem witness_ArpMapRoundTrip :
    WindowFits .rx (arpSet 28#32 1#32) ∧ 28 ≤ winLen (arpSet 28#32 1#32)
      ∧ (arpSet 28#32 1#32).args.a3.extractLsb' 16 2 = 0#2 ∧ otherArgs.a3.extractLsb' 16 2 = 0#2
      ∧ otherArgs.a0 = (arpSet 28#32 1#32).args.a0 ∧ otherArgs.a1 = (arpSet 28#32 1#32).args.a1
      ∧ (∀ i, ∃ t, exec i (arpSet 28#32 1#32) = .next t ∧ ∀ j, ∃ u, exec j { t with args := otherArgs } = .next u) := by
  refine ⟨?_, by decide +kernel, by decide, by decide, by decide, by decide, fun i => ⟨_, exec_after _ _, fun j => exec_ok _ _⟩⟩
  unfold WindowFits; decide +kernel

/-- Each error of IPV4_PARSE at its edge, and a packet that passes. -/
theorem witness_Ipv4ParseReportsHeader :
    (OnPacket (h1.take 19) ∧ (h1.take 19).length < 20)
    ∧ (OnPacket (h1.set 0 0x46#8) ∧ (h1.set 0 0x46#8).length < ihl4 (h1.set 0 0x46#8))
    ∧ (OnPacket (h1.set 3 19#8) ∧ totalLen (h1.set 3 19#8) < ihl4 (h1.set 3 19#8))
    ∧ (OnPacket (h1.set 3 21#8) ∧ (h1.set 3 21#8).length < totalLen (h1.set 3 21#8))
    ∧ (OnPacket (h1.set 3 20#8) ∧ Ipv4Fits (h1.set 3 20#8)) := by
  and_intros
  all_goals (try unfold OnPacket); (try unfold WindowFits); decide +kernel

/-- A packet with DF = 1, TTL `ttl` and protocol `proto`, one payload byte, and its checksum field `ck`. -/
def direct (ttl proto ck : Nat) : List Byte :=
  bytes 6 0x450000150001 ++ bytes 2 0x4000 ++ bytes 1 ttl ++ bytes 1 proto ++ bytes 2 ck ++ bytes 9 0xc0a80102c0a801015A

/-- `onRx` with IP_CSUM_EN = 1. -/
def checked (bs : List Byte) : State := { onRx bs with ctrl := { medium := false, ipCsumEn := true, csumBypass := false } }

/-- Not fitting; a bad checksum that is checked; TTL 0; DF with UDP, with ICMP and with another protocol. -/
theorem witness_Ipv4InputDirect :
    (OnPacket (h1.take 19) ∧ ¬ Ipv4Fits (h1.take 19))
    ∧ (WindowFits .rx (checked (direct 64 17 0)) ∧ winBytes .rx (checked (direct 64 17 0)) = direct 64 17 0
        ∧ Ipv4Fits (direct 64 17 0) ∧ ¬ HeaderSumOk (checked (direct 64 17 0)) (direct 64 17 0))
    ∧ (OnPacket (direct 0 17 0) ∧ Ipv4Fits (direct 0 17 0) ∧ byteAt (direct 0 17 0) 8 = 0#8)
    ∧ (OnPacket (direct 64 17 0) ∧ (byteAt (direct 64 17 0) 6).getLsbD 6 = true ∧ Delivered (byteAt (direct 64 17 0) 9))
    ∧ (OnPacket (direct 1 1 0) ∧ Ipv4Fits (direct 1 1 0) ∧ byteAt (direct 1 1 0) 8 ≠ 0#8 ∧ Delivered (byteAt (direct 1 1 0) 9))
    ∧ (OnPacket (direct 1 6 0) ∧ Ipv4Fits (direct 1 6 0) ∧ ¬ Delivered (byteAt (direct 1 6 0) 9)) := by
  and_intros
  all_goals (try unfold OnPacket); (try unfold WindowFits); decide +kernel

/-- A fragment with MF = `mf`, an offset in units of 8 octets, and protocol `proto`; 8 payload bytes. -/
def fragment (mf : Bool) (units proto : Nat) : List Byte :=
  bytes 6 0x4500001c0044 ++ bytes 2 ((if mf then 0x2000 else 0) + units) ++ bytes 1 64 ++ bytes 1 proto
    ++ bytes 10 0x0000c0a80102c0a80101 ++ bytes 8 0x0102030405060708

/-- The premises of the reassembly statement for one packet. -/
def ReassemblyPremises (s : State) (w : List Byte) : Prop :=
  WindowFits .rx s ∧ winBytes .rx s = w ∧ Ipv4Fits w ∧ Ipv4Admitted s w ∧ (byteAt w 6).getLsbD 6 = false

/-- A state whose four slots are held by other idents. -/
def slotsFull (bs : List Byte) : State :=
  { onRx bs with slots := (List.range 4).map fun k => { valid := true, ident := BitVec.ofNat 16 k, data := [] } }

/-- The last offset that fits and the first that does not; no slot left; a slot chosen because it is free and because it is the
ident's; MF = 1; MF = 0 delivered and ignored. -/
theorem witness_Ipv4InputReassembles :
    (ReassemblyPremises (onRx (fragment true 8191 17)) (fragment true 8191 17)
      ∧ State.reset.params.fragBufSize.toNat < fragOctets (fragment true 8191 17) + (ipv4Bytes (fragment true 8191 17)).length)
    ∧ (ReassemblyPremises (onRx (fragment true 8190 17)) (fragment true 8190 17)
      ∧ fragOctets (fragment true 8190 17) + (ipv4Bytes (fragment true 8190 17)).length ≤ State.reset.params.fragBufSize.toNat
      ∧ SlotChosen (onRx (fragment true 8190 17)).slots 0x0044#16 0)
    ∧ (ReassemblyPremises (slotsFull (fragment false 0 17)) (fragment false 0 17)
      ∧ NoSlotFor (slotsFull (fragment false 0 17)).slots 0x0044#16)
    ∧ (ReassemblyPremises (onRx (fragment false 1 17)) (fragment false 1 17) ∧ Delivered (byteAt (fragment false 1 17) 9))
    ∧ (ReassemblyPremises (onRx (fragment false 1 6)) (fragment false 1 6) ∧ ¬ Delivered (byteAt (fragment false 1 6) 9))
    ∧ SlotChosen [{ valid := true, ident := 0x0044#16, data := [] }] 0x0044#16 0 := by
  have free : SlotChosen (onRx (fragment true 8190 17)).slots 0x0044#16 0 :=
    .inr ⟨by decide +kernel, _, rfl, rfl, fun j hj => absurd hj (Nat.not_lt_zero j)⟩
  have own : SlotChosen [{ valid := true, ident := 0x0044#16, data := [] }] 0x0044#16 0 :=
    .inl ⟨_, rfl, rfl, rfl, fun j hj => absurd hj (Nat.not_lt_zero j)⟩
  refine ⟨?_, ⟨?_, ?_, free⟩, ?_, ?_, ?_, own⟩
  all_goals (try unfold ReassemblyPremises); (try unfold WindowFits); (try unfold Ipv4Admitted); (try unfold NoSlotFor); decide +kernel

/-- The state in which the host presents the second and the third fragment. -/
def present (t : State) (bs : List Byte) : State :=
  { t.writeBytes .rx 0 bs with args := ops 0#32 (word32 bs.length) 0#32 0#32 0#32 0#32 }

/-- After F1. -/
def afterF1 : State := after (.ipv4Input .rx) (onRx frag1)

/-- After F1 and F2. -/
def afterF2 : State := after (.ipv4Input .rx) (present afterF1 frag2)

theorem witness_ThreeFragmentsReassemble :
    (ipv4Bytes frag1).length + (ipv4Bytes frag2).length + (ipv4Bytes frag3).length ≤ (onRx frag1).params.fragBufSize.toNat
      ∧ SlotChosen (onRx frag1).slots 0x1234#16 0
      ∧ FragmentIn .rx (onRx frag1) 0x1234#16 0 true (ipv4Bytes frag1)
      ∧ FragmentIn .rx (present afterF1 frag2) 0x1234#16 (ipv4Bytes frag1).length true (ipv4Bytes frag2)
      ∧ FragmentIn .rx (present afterF2 frag3) 0x1234#16 ((ipv4Bytes frag1).length + (ipv4Bytes frag2).length) false (ipv4Bytes frag3)
      ∧ Delivered (byteAt (winBytes .rx (present afterF2 frag3)) 9)
      ∧ exec (.ipv4Input .rx) (onRx frag1) = .next afterF1 ∧ OnlyHostWrites afterF1 (present afterF1 frag2)
      ∧ exec (.ipv4Input .rx) (present afterF1 frag2) = .next afterF2 ∧ OnlyHostWrites afterF2 (present afterF2 frag3) := by
  refine ⟨by decide +kernel, .inr ⟨by decide +kernel, _, rfl, rfl, fun j hj => absurd hj (Nat.not_lt_zero j)⟩, ?_, ?_, ?_,
    by decide +kernel, exec_after _ _, ⟨rfl, rfl, rfl, rfl⟩, exec_after _ _, ⟨rfl, rfl, rfl, rfl⟩⟩
  all_goals (try unfold FragmentIn); (try unfold WindowFits); (try unfold Ipv4Admitted); decide +kernel

/-- After F2, as the first fragment. -/
def afterF2First : State := after (.ipv4Input .rx) (onRx frag2)

/-- After F2 and F1. -/
def afterF2F1 : State := after (.ipv4Input .rx) (present afterF2First frag1)

/-- The other order: F2, then F1, then F3. -/
theorem witness_ThreeFragmentsReassemble_swapped :
    SlotChosen (onRx frag2).slots 0x1234#16 0
      ∧ FragmentIn .rx (onRx frag2) 0x1234#16 (ipv4Bytes frag1).length true (ipv4Bytes frag2)
      ∧ FragmentIn .rx (present afterF2First frag1) 0x1234#16 0 true (ipv4Bytes frag1)
      ∧ FragmentIn .rx (present afterF2F1 frag3) 0x1234#16 ((ipv4Bytes frag1).length + (ipv4Bytes frag2).length) false (ipv4Bytes frag3)
      ∧ Delivered (byteAt (winBytes .rx (present afterF2F1 frag3)) 9)
      ∧ exec (.ipv4Input .rx) (onRx frag2) = .next afterF2First ∧ OnlyHostWrites afterF2First (present afterF2First frag1)
      ∧ exec (.ipv4Input .rx) (present afterF2First frag1) = .next afterF2F1 ∧ OnlyHostWrites afterF2F1 (present afterF2F1 frag3) := by
  refine ⟨.inr ⟨by decide +kernel, _, rfl, rfl, fun j hj => absurd hj (Nat.not_lt_zero j)⟩, ?_, ?_, ?_,
    by decide +kernel, exec_after _ _, ⟨rfl, rfl, rfl, rfl⟩, exec_after _ _, ⟨rfl, rfl, rfl, rfl⟩⟩
  all_goals unfold FragmentIn WindowFits Ipv4Admitted; decide +kernel

/-- The three payloads, concatenated, reach the Deliver port (vectors Q1 to Q3). -/
theorem test_three_fragments :
    (after (.ipv4Input .rx) (present afterF2 frag3)).history
      = [.deliver 17#8 (bytes 16 0x101112131415161718191a1b1c1d1e1f ++ bytes 16 0x202122232425262728292a2b2c2d2e2f
          ++ bytes 5 0xa0a1a2a3a4)] := by decide +kernel

/-- F1 with slot 0 held by another ident; and an error. -/
theorem witness_OtherIdentsKeepTheirSlots :
    (exec (.ipv4Input .rx) { onRx frag1 with slots := [{ valid := true, ident := 7#16, data := [] }, Slot.afterReset] }
        = .next (after (.ipv4Input .rx) { onRx frag1 with slots := [{ valid := true, ident := 7#16, data := [] }, Slot.afterReset] })
      ∧ (after (.ipv4Input .rx) { onRx frag1 with slots := [{ valid := true, ident := 7#16, data := [] }, Slot.afterReset] }).status.err
        = false
      ∧ (7#16 : Half) ≠ (after (.ipv4Input .rx)
        { onRx frag1 with slots := [{ valid := true, ident := 7#16, data := [] }, Slot.afterReset] }).res.r1.extractLsb' 16 16)
    ∧ exec .rxPoll (pending [1#8]) = .next (after .rxPoll (pending [1#8]))
    ∧ (after .rxPoll (pending [1#8])).status.err = true :=
  ⟨⟨exec_after _ _, by decide +kernel, by decide +kernel⟩, exec_after _ _, by decide +kernel⟩

/-- The first slot number that does not exist, the last that does, and all. -/
theorem witness_FragFlushFreesSlots :
    ((4#8 : Byte) ≠ 0xFF#8 ∧ State.reset.params.nFragSlots.toNat ≤ (4#8 : Byte).toNat
      ∧ (onTx 0#32 4#32 0#32 0#32 0#32).args.a2.extractLsb' 0 8 = 4#8)
    ∧ (¬ State.reset.params.nFragSlots.toNat ≤ (3#8 : Byte).toNat ∧ (onTx 0#32 3#32 0#32 0#32 0#32).args.a2.extractLsb' 0 8 = 3#8)
    ∧ (onTx 0#32 0xFF#32 0#32 0#32 0#32).args.a2.extractLsb' 0 8 = 0xFF#8 := by decide

/-- A state whose table holds 192.168.1.1/24 alone, with operands. -/
def oneAddr (a p : Word) : State := { onTx 0#32 a p 0#32 0#32 with addrs := [{ addr := 0xC0A80101#32, plen := 24#6 }] }

/-- Prefix 33; an entry already present; a full table; an entry that is added. -/
theorem witness_AddrAddInserts :
    (∀ a p, tableSound (oneAddr a p).params.nIpAddrs.toNat (oneAddr a p).addrs)
    ∧ 32 < ((oneAddr 0#32 33#32).args.a3.extractLsb' 0 8).toNat
    ∧ (∃ e ∈ (oneAddr 0xC0A80101#32 24#32).addrs, IsOperandEntry (oneAddr 0xC0A80101#32 24#32) e)
    ∧ (tableSound 1 (oneAddr 1#32 32#32).addrs ∧ (oneAddr 1#32 32#32).addrs.length = 1
      ∧ ¬ ∃ e ∈ (oneAddr 1#32 32#32).addrs, IsOperandEntry (oneAddr 1#32 32#32) e)
    ∧ (oneAddr 1#32 32#32).addrs.length ≠ (oneAddr 1#32 32#32).params.nIpAddrs.toNat := by
  refine ⟨fun a p => ?_, by decide, by decide, ?_, by decide⟩
  · show tableSound 4 [{ addr := 0xC0A80101#32, plen := 24#6 }]
    unfold tableSound; decide
  · unfold tableSound; decide

theorem witness_AddrDelRemoves :
    (∀ a p, tableSound (oneAddr a p).params.nIpAddrs.toNat (oneAddr a p).addrs)
    ∧ (∃ e ∈ (oneAddr 0xC0A80101#32 24#32).addrs, IsOperandEntry (oneAddr 0xC0A80101#32 24#32) e)
    ∧ ¬ ∃ e ∈ (oneAddr 0xC0A80101#32 25#32).addrs, IsOperandEntry (oneAddr 0xC0A80101#32 25#32) e :=
  ⟨witness_AddrAddInserts.1, by decide, by decide⟩

theorem witness_PollWithoutFrame : State.reset.rxPending = false := rfl

/-- RX_LEN at RX_BUF_SIZE and one above. -/
theorem witness_PollConsumesTheFrame :
    { pending h1 with rxLen := 2048#16 }.rxPending = true
      ∧ { pending h1 with rxLen := 2049#16 }.params.rxBufSize.toNat < { pending h1 with rxLen := 2049#16 }.rxLen.toNat := by
  decide +kernel

/-- The frame with a destination MAC and what follows it. -/
def toMac (dst : Nat) (bs : List Byte) : List Byte := bytes 6 dst ++ bytes 6 0x020000000002 ++ bs

/-- The pending frame is `f`, on the Ethernet medium. -/
def Pending (s : State) (f : List Byte) : Prop := EthernetFramePending s ∧ rxFrame s = f

/-- A short frame; another destination; an unconfigured tag; a LENGTH frame; IPv6. -/
theorem witness_PollFiltersFrames :
    (Pending (pending [1#8]) [1#8] ∧ EthTooShort [1#8] 14)
    ∧ (Pending (pending (toMac 0x020000000009 [8#8, 6#8])) (toMac 0x020000000009 [8#8, 6#8])
      ∧ EthShape (toMac 0x020000000009 [8#8, 6#8]) 0#3 1#2 14 0x0806#16 0#12 0#12
      ∧ ¬ DstMatches (pending (toMac 0x020000000009 [8#8, 6#8])) (toMac 0x020000000009 [8#8, 6#8]))
    ∧ (Pending (pending (toMac 0x020000000001 (bytes 6 0x810000050806))) (toMac 0x020000000001 (bytes 6 0x810000050806))
      ∧ EthShape (toMac 0x020000000001 (bytes 6 0x810000050806)) 1#3 1#2 18 0x0806#16 5#12 0#12
      ∧ DstMatches (pending []) (toMac 0x020000000001 (bytes 6 0x810000050806))
      ∧ vlanReason (pending []).vlanCfg 1#3 5#12 0#12 = 0x02#8)
    ∧ (Pending (pending (toMac 0xFFFFFFFFFFFF (bytes 2 0x0100))) (toMac 0xFFFFFFFFFFFF (bytes 2 0x0100))
      ∧ EthShape (toMac 0xFFFFFFFFFFFF (bytes 2 0x0100)) 3#3 3#2 14 0x0100#16 0#12 0#12
      ∧ DstMatches (pending []) (toMac 0xFFFFFFFFFFFF (bytes 2 0x0100)) ∧ vlanReason (pending []).vlanCfg 3#3 0#12 0#12 ≠ 0x00#8)
    ∧ (Pending (pending (toMac 0xFFFFFFFFFFFF (bytes 2 0x86DD))) (toMac 0xFFFFFFFFFFFF (bytes 2 0x86DD))
      ∧ EthShape (toMac 0xFFFFFFFFFFFF (bytes 2 0x86DD)) 0#3 2#2 14 0x86DD#16 0#12 0#12
      ∧ vlanReason (pending []).vlanCfg 0#3 0#12 0#12 = 0x00#8) := by
  and_intros
  all_goals (try unfold Pending); (try unfold EthernetFramePending); (try unfold EthTooShort); (try unfold EthShape); decide +kernel

/-- An ARP frame with the given packet, pending, is accepted with its payload at byte 14. -/
def ArpPending (p : List Byte) : Prop :=
  EthernetFramePending (pending (toMac 0x020000000001 ([8#8, 6#8] ++ p)))
    ∧ FrameAccepted (pending (toMac 0x020000000001 ([8#8, 6#8] ++ p))) 1#2 14
    ∧ (rxFrame (pending (toMac 0x020000000001 ([8#8, 6#8] ++ p)))).drop 14 = p

/-- A frame is accepted if its shape, as ARP without a tag, evaluates so. -/
theorem arpPending_of (p : List Byte)
    (h : (EthernetFramePending (pending (toMac 0x020000000001 ([8#8, 6#8] ++ p))))
      ∧ EthShape (rxFrame (pending (toMac 0x020000000001 ([8#8, 6#8] ++ p)))) 0#3 1#2 14 0x0806#16 0#12 0#12
      ∧ DstMatches (pending (toMac 0x020000000001 ([8#8, 6#8] ++ p))) (rxFrame (pending (toMac 0x020000000001 ([8#8, 6#8] ++ p))))
      ∧ (rxFrame (pending (toMac 0x020000000001 ([8#8, 6#8] ++ p)))).drop 14 = p) : ArpPending p :=
  ⟨h.1, ⟨0#3, 0x0806#16, 0#12, 0#12, h.2.1, h.2.2.1, rfl⟩, h.2.2.2⟩

/-- Each check of the poll in its order, and a packet that passes them all. -/
theorem witness_PollRejectsBadArp :
    (ArpPending (req.take 7) ∧ (req.take 7).length < 8) ∧ (ArpPending (req.take 27) ∧ (req.take 27).length = 27)
    ∧ (ArpPending (req.set 1 2#8) ∧ rd16 (req.set 1 2#8) 0 ≠ 1#16) ∧ (ArpPending (req.set 4 5#8) ∧ byteAt (req.set 4 5#8) 4 = 5#8)
    ∧ (ArpPending (req.set 3 1#8) ∧ rd16 (req.set 3 1#8) 2 ≠ 0x0800#16) ∧ (ArpPending (req.set 5 3#8) ∧ byteAt (req.set 5 3#8) 5 = 3#8)
    ∧ ArpPending req ∧ ArpWellFormed req := by
  refine ⟨⟨arpPending_of _ ?_, ?_⟩, ⟨arpPending_of _ ?_, ?_⟩, ⟨arpPending_of _ ?_, ?_⟩, ⟨arpPending_of _ ?_, ?_⟩,
    ⟨arpPending_of _ ?_, ?_⟩, ⟨arpPending_of _ ?_, ?_⟩, arpPending_of _ ?_, ?_⟩
  all_goals (try unfold EthernetFramePending); (try unfold EthShape); decide +kernel

/-- A packet for an address the interface does not own. -/
theorem witness_PollLearnsBeforeFiltering :
    ArpPending (req.set 27 9#8) ∧ ArpWellFormed (req.set 27 9#8)
      ∧ ∀ e ∈ (pending (toMac 0x020000000001 ([8#8, 6#8] ++ req.set 27 9#8))).addrs, e.addr ≠ rd32 (req.set 27 9#8) 24 := by
  refine ⟨arpPending_of _ ?_, ?_, ?_⟩
  all_goals (try unfold EthernetFramePending); (try unfold EthShape); decide +kernel

/-- A request for the interface's own address. -/
theorem witness_PollAnswersArp :
    ArpPending req ∧ ArpWellFormed req
      ∧ ∃ e ∈ (pending (toMac 0x020000000001 ([8#8, 6#8] ++ req))).addrs, e.addr = rd32 req 24 :=
  ⟨witness_PollRejectsBadArp.2.2.2.2.2.2.1, witness_PollRejectsBadArp.2.2.2.2.2.2.2, by decide +kernel⟩

theorem witness_ReplyParsesBack :
    (pending (toMac 0x020000000001 ([8#8, 6#8] ++ req))).params.wf = true ∧ ArpPending req ∧ ArpWellFormed req
      ∧ ∃ e ∈ (pending (toMac 0x020000000001 ([8#8, 6#8] ++ req))).addrs, e.addr = rd32 req 24 :=
  ⟨by decide +kernel, witness_PollAnswersArp⟩

/-- A poll of each kind: without a frame, and of an ARP request for an owned address (whatever the ports answer). -/
theorem witness_PollPortOrder :
    (∃ t, exec .rxPoll State.reset = .next t) ∧ ∃ t, exec .rxPoll (pending (toMac 0x020000000001 ([8#8, 6#8] ++ req))) = .next t :=
  ⟨exec_ok _ _, exec_ok _ _⟩

/-- The IP medium with a packet. -/
def ipPending (bs : List Byte) : State :=
  { pending bs with ctrl := { medium := true, ipCsumEn := false, csumBypass := false } }

/-- An accepted Ethernet frame with an IPv4 payload; on the IP medium a packet of version 4, an empty one, and one of version 6. -/
theorem witness_PollRunsIpv4Input :
    (EthernetFramePending (pending (toMac 0x020000000001 ([8#8, 0#8] ++ h1)))
      ∧ FrameAccepted (pending (toMac 0x020000000001 ([8#8, 0#8] ++ h1))) 0#2 14)
    ∧ (IpPacketPending (ipPending h1) ∧ 1 ≤ (ipPending h1).rxLen.toNat
      ∧ ((ipPending h1).readByte .rx 0).extractLsb' 4 4 = 4#4)
    ∧ (∀ s, ∃ u, exec (.ipv4Input .rx) s = .next u)
    ∧ (IpPacketPending (ipPending []) ∧ (ipPending []).rxLen = 0#16)
    ∧ (IpPacketPending (ipPending [0x60#8]) ∧ (ipPending [0x60#8]).rxLen ≠ 0#16
      ∧ ((ipPending [0x60#8]).readByte .rx 0).extractLsb' 4 4 ≠ 4#4) := by
  refine ⟨⟨?_, 0#3, 0x0800#16, 0#12, 0#12, ?_, ?_, rfl⟩, ?_, fun s => exec_ok _ _, ?_, ?_⟩
  all_goals (try unfold EthernetFramePending); (try unfold IpPacketPending); (try unfold EthShape); decide +kernel

end Sys2Proof.Tests
end

section
/-!
PROOFS. The state statements (10_state.md). First the facts they share: what one host operation and one step can
do, what a command leaves unchanged, and that each operation on the table, the slots and the bytes keeps its part
of the invariant.
-/

namespace Sys2Proof.Machine

open Sys2Proof

/-! ### The steps of the machine, case by case -/

/-- A space and index that the address map names lie inside the space (20_memory.md R60). -/
theorem spaceAt_inside {p : Params} {off i : Nat} {sp : Space} (h : spaceAt p off = some (sp, i)) :
    i < spaceSize p sp := by
  unfold spaceAt at h
  split at h
  · rename_i hr
    cases h
    exact hr.2
  · split at h
    · rename_i ht
      cases h
      exact ht.2
    · split at h
      · rename_i hs
        cases h
        simpa [spaceSize, hs.2.1] using hs.2.2
      · cases h

/-- The bytes an access reaches lie inside their space (20_memory.md R63). -/
theorem accessTarget_inside {p : Params} {w : Width} {addr : Word} {tg : Target} (h : accessTarget p w addr = .ok tg) :
    match tg with
    | .reg _ => True
    | .byteIn sp i => i < spaceSize p sp
    | .wordIn sp i => i + 4 ≤ spaceSize p sp := by
  unfold accessTarget at h
  split at h
  · cases h
  · split at h
    · unfold regTarget at h
      repeat' split at h
      all_goals cases h
      trivial
    · unfold spaceTarget at h
      split at h
      · cases h
      · rename_i sp i hsp
        split at h
        · cases h
          exact spaceAt_inside hsp
        · cases h
        · repeat' split at h
          all_goals cases h
          assumption

/-- What one host operation can do to a state, when it answers a next state (20_memory.md R65, 30_encoding.md R81,
70_reset_and_hazards.md R280). -/
inductive OpEffect (s : State) : HostOp → State → Prop where
  | read (w : Width) (addr v : Word) : OpEffect s (.read w addr) { s with busData := some v }
  | command (w : Width) (addr c : Word) (i : Instr) (t : State) (hd : decode c = .ok i) (h : exec i s = .next t) :
      OpEffect s (.write w addr c) t
  | illegal (w : Width) (addr c : Word) : OpEffect s (.write w addr c) (raiseErr { code := .illegal, info := c } s)
  | register (w : Width) (addr v : Word) (r : Reg) : OpEffect s (.write w addr v) (writeReg s r v)
  | bytes (w : Width) (addr v : Word) (sp : Space) (i : Nat) (bs : List Byte) (h : i + bs.length ≤ spaceSize s.params sp) :
      OpEffect s (.write w addr v) (hostWrite s sp i bs)
  | reset : OpEffect s .reset (platformReset s)

theorem runCommandWord_effect {s t : State} (w : Width) (addr : Word) {c : Word} (h : runCommandWord c s = .next t) :
    OpEffect s (.write w addr c) t := by
  unfold runCommandWord at h
  split at h
  · rename_i i hd
    exact .command w addr c i t hd h
  · cases h
    exact .illegal w addr c

theorem perform_effect {op : HostOp} {s t : State} (h : perform op s = .next t) : OpEffect s op t := by
  cases op with
  | reset =>
    cases h
    exact .reset
  | read w addr =>
    simp only [perform, hostRead] at h
    split at h <;> cases h
    exact .read w addr _
  | write w addr v =>
    simp only [perform, hostStore] at h
    split at h
    · cases h
    · exact runCommandWord_effect w addr h
    · cases h
      exact .register w addr v _
    · rename_i sp i ht
      cases h
      exact .bytes w addr v sp i _ (accessTarget_inside ht)
    · rename_i sp i ht
      cases h
      exact .bytes w addr v sp i _ (accessTarget_inside ht)

/-- Everything a step can do: nothing, or what its oldest host operation does (60_exceptions.md R277). -/
theorem step_cases {s t : State} (h : step s = .next t) :
    (s.inbox = [] ∧ t = s) ∨ ∃ op rest, s.inbox = op :: rest ∧ OpEffect { s with inbox := rest } op t := by
  unfold step stepInbox at h
  split at h
  · rename_i hi
    cases h
    exact .inl ⟨hi, rfl⟩
  · rename_i op rest hi
    exact .inr ⟨op, rest, hi, perform_effect h⟩

/-! ### What a command, a register write and a host write of bytes leave unchanged -/

/-- The receive branch only appends to the port history (10_state.md R44). -/
theorem ipv4Receive_history (f : Ipv4Info) (w : List Byte) (s : State) : s.history <+: (ipv4Receive f w s).1.history := by
  obtain ⟨slots, hist, hr, -, -, hhist⟩ := ipv4Receive_effect f w s
  have hprefix : s.history <+: hist := by
    rcases hhist with ⟨rfl, -⟩ | ⟨bs, rfl, -⟩
    · exact List.prefix_rfl
    · exact List.prefix_append _ _
  rw [hr]
  exact hprefix

/-- The kinds of effect that the commands but RX_POLL have: which part of the state each writes, and which commands
write the slots, the table and the history. -/
inductive EffectKind (i : Instr) (s : State) : State → Prop where
  | acc (x : Half) : EffectKind i s { s with csumAcc := x }
  | results (r : Results) : EffectKind i s { s with res := r }
  | store (b : Buf) (m : Memory)
      (h : memSound (s.memOf (spaceOf b)) (spaceSize s.params (spaceOf b)) → memSound m (spaceSize s.params (spaceOf b))) :
      EffectKind i s (s.setMem (spaceOf b) m)
  | receive (b : Buf) (hi : i = .ipv4Input b) (f : Ipv4Info) (p : List Byte) (slots : List Slot) (hist : List PortEvent)
      (r : Results) (hslots : FragSlots f p s slots) (hhist : s.history <+: hist) :
      EffectKind i s { s with slots := slots, history := hist, res := r }
  | flush (hi : i = .fragFlush) (r : Results) :
      EffectKind i s { s with slots := flushSlots (argSlot s) 0 s.slots, res := r }
  | insert (hi : i = .addrAdd) (hp : (argPrefixLen s).toNat ≤ 32)
      (hnew : s.addrs.any (entryIs (argIp s) (argPrefixLen s)) = false) (hroom : s.addrs.length < s.params.nIpAddrs.toNat)
      (r : Results) :
      EffectKind i s { s with
        addrs := insertAddr { addr := argIp s, plen := (argPrefixLen s).setWidth 6 } s.addrs, res := r }
  | remove (hi : i = .addrDel) (r : Results) :
      EffectKind i s { s with addrs := removeAddr (argIp s) (argPrefixLen s) s.addrs, res := r }

theorem okEffect_kind {i : Instr} {s u : State} (h : OkEffect i s u) : EffectKind i s u := by
  cases i with
  | csumClear | csumBytes | csumWord | csumPseudo =>
    obtain ⟨x, rfl⟩ := h
    exact .acc x
  | csumVerify | ethParse | vlanStrip | arpParse | ipv4Parse =>
    obtain ⟨x, rfl⟩ := h
    exact .results _
  | ethSetDst b | ethSetSrc b | ethSetProto b | arpSetSrcMap b | arpSetTgtMap b | arpSetOper b =>
    obtain ⟨m, rfl, -, hm⟩ := h
    exact .store b m hm
  | ipv4Input b =>
    obtain ⟨f, -, rfl⟩ := h
    have hhist := ipv4Receive_history f (winBytes b s) s
    obtain ⟨slots, hist, hr, hslots, -⟩ := ipv4Receive_effect f (winBytes b s) s
    rw [hr] at hhist ⊢
    exact .receive b rfl f _ slots hist _ hslots hhist
  | fragFlush =>
    obtain ⟨n, rfl⟩ := h
    exact .flush rfl _
  | addrAdd =>
    obtain ⟨a, rfl, rfl | ⟨hp, hnew, hroom, rfl⟩⟩ := h
    · exact .results _
    · exact .insert rfl hp hnew hroom _
  | addrDel =>
    cases h
    exact .remove rfl _
  | rxPoll => exact h.elim

/-- What every command but RX_POLL leaves unchanged before its completion. -/
theorem EffectKind.frame {i : Instr} {s u : State} (h : EffectKind i s u) :
    u = { s with
      res := u.res, csumAcc := u.csumAcc, addrs := u.addrs, slots := u.slots, rxBuf := u.rxBuf, txBuf := u.txBuf,
      history := u.history } := by
  cases h with
  | store b m => cases b <;> rfl
  | acc | results | receive | flush | insert | remove => rfl

/-- What a poll leaves unchanged. The bytes of the reply take no part, here and below, so they are a variable. -/
theorem PollEnd.frame {s t : State} (h : PollEnd s t) :
    t = { s with
      status := t.status, errInfo := t.errInfo, res := t.res, slots := t.slots, txBuf := t.txBuf, txLen := t.txLen,
      history := t.history, draws := t.draws } := by
  cases h with
  | ipv4 f w hf =>
    obtain ⟨sl, hist, hr, -⟩ := ipv4Receive_effect f w s
    rw [hr]
    rfl
  | replied q | sendFailed q =>
    generalize replyTo q s = reply
    rfl
  | error | drop | arpDrop => rfl

/-- What RX_POLL leaves unchanged. -/
theorem poll_frame {s t : State} (h : exec .rxPoll s = .next t) :
    t = { s with
      status := t.status, errInfo := t.errInfo, res := t.res, rxPending := t.rxPending, slots := t.slots,
      txBuf := t.txBuf, txLen := t.txLen, history := t.history, draws := t.draws } := by
  rcases poll_cases h with ⟨-, rfl⟩ | ⟨-, hp⟩
  · rfl
  · rw [hp.frame]

/-- What no command changes: the operands, the configuration, RX_LEN, the parameters and the model's own fields but
the count of draws (10_state.md R29, R34). -/
theorem exec_frame {i : Instr} {s t : State} (h : exec i s = .next t) :
    t = { s with
      status := t.status, errInfo := t.errInfo, res := t.res, csumAcc := t.csumAcc, rxPending := t.rxPending,
      txLen := t.txLen, addrs := t.addrs, slots := t.slots, rxBuf := t.rxBuf, txBuf := t.txBuf, history := t.history,
      draws := t.draws } := by
  by_cases hi : i = .rxPoll
  · subst hi
    rw [poll_frame h]
  · rcases exec_cases hi h with ⟨e, rfl⟩ | ⟨u, hu, rfl⟩
    · rfl
    · rw [(okEffect_kind hu).frame]
      rfl

theorem writeReg_frame (s : State) (r : Reg) (v : Word) :
    writeReg s r v = { s with
      ctrl := (writeReg s r v).ctrl, args := (writeReg s r v).args, macHi := (writeReg s r v).macHi,
      macLo := (writeReg s r v).macLo, vlanCfg := (writeReg s r v).vlanCfg, rxPending := (writeReg s r v).rxPending,
      rxLen := (writeReg s r v).rxLen } := by
  cases r <;> rfl

theorem hostWrite_frame (s : State) (sp : Space) (i : Nat) (bs : List Byte) :
    hostWrite s sp i bs = { s with rxBuf := (hostWrite s sp i bs).rxBuf, txBuf := (hostWrite s sp i bs).txBuf } := by
  cases sp <;> rfl

/-! ### The slots keep their invariant (10_state.md R40, R41) -/

theorem slotsDistinct_iff (slots : List Slot) :
    slotsDistinct slots ↔ ∀ i j (_ : i < j) (hj : j < slots.length),
      slots[i].valid = true → slots[j].valid = true → slots[i].ident ≠ slots[j].ident := by
  rw [slotsDistinct, List.pairwise_iff_getElem]
  exact ⟨fun h i j hij hj => h i j (by omega) hj hij, fun h i j _ hj hij => h i j hij hj⟩

/-- Slots stay distinct when none becomes valid and the valid ones keep their ident. -/
theorem slotsDistinct_of_fewer {slots new : List Slot} (h : slotsDistinct slots) (hl : new.length = slots.length)
    (hk : ∀ k (hk : k < slots.length), new[k].valid = true → slots[k].valid = true ∧ new[k].ident = slots[k].ident) :
    slotsDistinct new := by
  rw [slotsDistinct_iff] at h ⊢
  intro i j hij hj hvi hvj
  obtain ⟨hi, ei⟩ := hk i (by omega) hvi
  obtain ⟨hj', ej⟩ := hk j (by omega) hvj
  rw [ei, ej]
  exact h i j hij (by omega) hi hj'

theorem claimSlot_getElem (k : Nat) (id : Half) (slots : List Slot) (i : Nat) (h : i < slots.length) :
    (claimSlot k id slots)[i]'(by simpa using h)
      = if k = i then { slots[i] with valid := true, ident := id } else slots[i] := by
  simp [claimSlot, List.getElem_modify]

theorem freeSlot_getElem (k : Nat) (slots : List Slot) (i : Nat) (h : i < slots.length) :
    (freeSlot k slots)[i]'(by simpa using h) = if k = i then { slots[i] with valid := false } else slots[i] := by
  simp [freeSlot, List.getElem_modify]

theorem setSlotData_getElem (k : Nat) (m : Memory) (slots : List Slot) (i : Nat) (h : i < slots.length) :
    (setSlotData k m slots)[i]'(by simpa using h) = if k = i then { slots[i] with data := m } else slots[i] := by
  simp [setSlotData, List.getElem_modify]

/-- Every slot's bytes stay sound when each slot's do. -/
theorem memSound_data_of_getElem {slots new : List Slot} {size : Nat} (h : ∀ x ∈ slots, memSound x.data size)
    (hl : new.length = slots.length)
    (hk : ∀ k (hk : k < slots.length), memSound slots[k].data size → memSound new[k].data size) :
    ∀ x ∈ new, memSound x.data size := by
  intro x hx
  obtain ⟨k, hlt, rfl⟩ := List.getElem_of_mem hx
  exact hk k (by omega) (h _ (List.getElem_mem _))

theorem slotsSound_claimSlot {p : Params} {slots : List Slot} (h : slotsSound p slots) (k : Nat) {id : Half}
    (hid : ∀ x ∈ slots, ¬ (x.valid = true ∧ x.ident = id)) : slotsSound p (claimSlot k id slots) := by
  obtain ⟨hlen, hdist, hdata⟩ := h
  refine ⟨by simpa using hlen, ?_, memSound_data_of_getElem hdata (by simp) fun i hi hp => ?_⟩
  · rw [slotsDistinct_iff] at hdist ⊢
    intro i j hij hj
    have hj' : j < slots.length := by simpa using hj
    have hfresh : ∀ m (hm : m < slots.length), slots[m].valid = true → slots[m].ident ≠ id :=
      fun m hm hv he => hid _ (List.getElem_mem hm) ⟨hv, he⟩
    rw [claimSlot_getElem k id slots i (by omega), claimSlot_getElem k id slots j hj']
    by_cases hi : k = i
    · rw [if_pos hi, if_neg (by omega)]
      exact fun _ hv => (hfresh j hj' hv).symm
    · rw [if_neg hi]
      split
      · exact fun hv _ => hfresh i (by omega) hv
      · exact hdist i j hij hj'
  · rw [claimSlot_getElem k id slots i hi]
    split <;> exact hp

theorem slotsSound_freeSlot {p : Params} {slots : List Slot} (h : slotsSound p slots) (k : Nat) :
    slotsSound p (freeSlot k slots) := by
  obtain ⟨hlen, hdist, hdata⟩ := h
  refine ⟨by simpa using hlen, slotsDistinct_of_fewer hdist (by simp) fun i hi => ?_,
    memSound_data_of_getElem hdata (by simp) fun i hi hp => ?_⟩
  · rw [freeSlot_getElem k slots i hi]
    split
    · exact fun hv => nomatch hv
    · exact fun hv => ⟨hv, rfl⟩
  · rw [freeSlot_getElem k slots i hi]
    split <;> exact hp

theorem slotsSound_setSlotData {p : Params} {slots : List Slot} (h : slotsSound p slots) (k : Nat) {m : Memory}
    (hm : memSound m p.fragBufSize.toNat) : slotsSound p (setSlotData k m slots) := by
  obtain ⟨hlen, hdist, hdata⟩ := h
  refine ⟨by simpa using hlen, slotsDistinct_of_fewer hdist (by simp) fun i hi => ?_,
    memSound_data_of_getElem hdata (by simp) fun i hi hp => ?_⟩
  · rw [setSlotData_getElem k m slots i hi]
    split <;> exact fun hv => ⟨hv, rfl⟩
  · rw [setSlotData_getElem k m slots i hi]
    split
    · exact hm
    · exact hp

theorem slotsSound_flushSlots {p : Params} {slots : List Slot} (h : slotsSound p slots) (t : Byte) :
    slotsSound p (flushSlots t 0 slots) := by
  obtain ⟨hlen, hdist, hdata⟩ := h
  refine ⟨by simpa using hlen, slotsDistinct_of_fewer hdist (by simp) fun i hi => ?_,
    memSound_data_of_getElem hdata (by simp) fun i hi hp => ?_⟩
  · rw [flushSlots_getElem t 0 slots i hi]
    exact fun hv => ⟨(Bool.and_eq_true_iff.1 hv).1, rfl⟩
  · rw [flushSlots_getElem t 0 slots i hi]
    exact hp

theorem slotsSound_slotFor {p : Params} {slots new : List Slot} {id : Half} {k : Nat} (h : slotsSound p slots)
    (hs : slotFor id slots = some (k, new)) : slotsSound p new := by
  rcases slotFor_cases id slots with ⟨_, _, _, _, e, _⟩ | ⟨j, _, _, e, hid, _⟩ | ⟨e, _⟩ <;> rw [e] at hs <;> cases hs
  · exact h
  · exact slotsSound_claimSlot h _ hid

/-- The slots after a fragment was stored (44_ipv4.md R210). -/
theorem storedFragment_slots (f : Ipv4Info) (p : List Byte) (k : Nat) (slots : List Slot) (s : State) :
    (storedFragment f p k slots s).slots
      = setSlotData k ((State.memOf { s with slots := slots } (.slot k)).writeBytes f.off p) slots := rfl

theorem memSound_slot {p : Params} {s : State} (h : slotsSound p s.slots) (k : Nat) :
    memSound (s.memOf (.slot k)) p.fragBufSize.toNat := by
  obtain ⟨-, -, hdata⟩ := h
  simp only [State.memOf]
  split
  · rename_i x hx
    exact hdata x (List.mem_of_getElem? hx)
  · exact memSound_nil _

theorem slotsSound_fragSlots {f : Ipv4Info} {p : List Byte} {s : State} {new : List Slot}
    (h : slotsSound s.params s.slots) (hf : FragSlots f p s new) : slotsSound s.params new := by
  rcases hf with rfl | ⟨k, slots, hs, hle, hnew⟩
  · exact h
  · have hslots : slotsSound s.params slots := slotsSound_slotFor h hs
    have hstored : slotsSound s.params (storedFragment f p k slots s).slots := by
      rw [storedFragment_slots]
      exact slotsSound_setSlotData hslots k
        (memSound_writeBytes (memSound_slot (s := { s with slots := slots }) hslots k) hle)
    rcases hnew with ⟨-, rfl⟩ | ⟨-, rfl⟩
    · exact hstored
    · exact slotsSound_freeSlot hstored k

/-! ### The address table keeps its invariant (10_state.md R38) -/

/-- The sort key determines the entry. -/
theorem AddrEntry.key_inj {x y : AddrEntry} (h : x.key.toNat = y.key.toNat) : x = y := by
  obtain ⟨xa, xp⟩ := x
  obtain ⟨ya, yp⟩ := y
  have hk : xa ++ xp = ya ++ yp := BitVec.eq_of_toNat_eq h
  have ha : xa = ya := by rw [← extract_left xa xp, hk, extract_left]
  have hp : xp = yp := by rw [← extract_right xa xp, hk, extract_right]
  rw [ha, hp]

theorem insertAddr_sorted {e : AddrEntry} {t : List AddrEntry} (hs : t.Pairwise fun x y => x.key.toNat < y.key.toNat)
    (he : e ∉ t) : (insertAddr e t).Pairwise fun x y => x.key.toNat < y.key.toNat := by
  induction t with
  | nil => simp [insertAddr]
  | cons x t ih =>
    obtain ⟨hx, ht⟩ := List.pairwise_cons.1 hs
    obtain ⟨hne, hnt⟩ : e ≠ x ∧ e ∉ t := by simpa using he
    simp only [insertAddr]
    split
    · rename_i hgt
      refine List.pairwise_cons.2 ⟨fun y hy => ?_, hs⟩
      rcases List.mem_cons.1 hy with rfl | hy
      · exact hgt
      · exact Nat.lt_trans hgt (hx y hy)
    · rename_i hle
      have hlt : x.key.toNat < e.key.toNat :=
        Nat.lt_of_le_of_ne (Nat.le_of_not_gt hle) fun hk => hne (AddrEntry.key_inj hk).symm
      refine List.pairwise_cons.2 ⟨fun y hy => ?_, ih ht hnt⟩
      rcases mem_insertAddr.1 hy with rfl | hy
      · exact hlt
      · exact hx y hy

theorem tableSound_insertAddr {n : Nat} {t : List AddrEntry} {e : AddrEntry} (h : tableSound n t) (he : e ∉ t)
    (hp : e.plen.toNat ≤ 32) (hl : t.length < n) : tableSound n (insertAddr e t) := by
  obtain ⟨hsorted, hplen, -⟩ := h
  refine ⟨insertAddr_sorted hsorted he, fun x hx => ?_, by simpa using hl⟩
  rcases mem_insertAddr.1 hx with rfl | hx
  · exact hp
  · exact hplen x hx

theorem tableSound_removeAddr {n : Nat} {t : List AddrEntry} (h : tableSound n t) (a : IpAddr) (p : Byte) :
    tableSound n (removeAddr a p t) := by
  obtain ⟨hsorted, hplen, hlen⟩ := h
  have hsub := removeAddr_sublist a p t
  exact ⟨hsorted.sublist hsub, fun x hx => hplen x (hsub.subset hx), Nat.le_trans hsub.length_le hlen⟩

/-- Six bits hold every IP_PREFIX up to 32 (10_state.md R38). -/
theorem toNat_plen {p : Byte} (h : p.toNat ≤ 32) : (p.setWidth 6).toNat = p.toNat := by
  rw [BitVec.toNat_setWidth]
  omega

/-- The pair of the operands is new to a table in which no entry equals it (45_interface.md R230). -/
theorem not_mem_of_entryIs {a : IpAddr} {p : Byte} {t : List AddrEntry} (hp : p.toNat ≤ 32)
    (h : t.any (entryIs a p) = false) : ({ addr := a, plen := p.setWidth 6 } : AddrEntry) ∉ t := by
  intro hm
  have hwide : (p.setWidth 6).setWidth 8 = p := by
    apply BitVec.eq_of_toNat_eq
    rw [BitVec.toNat_setWidth, toNat_plen hp]
    omega
  have he := List.any_eq_false.1 h _ hm
  simp [entryIs, hwide] at he

/-! ### Sound states -/

/-- A state that differs from a sound one only in fields the invariant does not speak of. -/
theorem soundState_frame {s t : State} (h : SoundState s)
    (e : t = { s with
      ctrl := t.ctrl, args := t.args, res := t.res, csumAcc := t.csumAcc, macHi := t.macHi, macLo := t.macLo,
      vlanCfg := t.vlanCfg, rxPending := t.rxPending, rxLen := t.rxLen, history := t.history, epoch := t.epoch,
      draws := t.draws, busData := t.busData, inbox := t.inbox }) : SoundState t := by
  rw [e]
  exact ⟨h.params, h.status, h.table, h.slots, h.rx, h.tx, h.reply⟩

theorem soundState_complete {s : State} (h : SoundState s) : SoundState (complete s) :=
  ⟨h.params, ⟨rfl, fun _ => ⟨rfl, rfl⟩, fun he => (nomatch he)⟩, h.table, h.slots, h.rx, h.tx, h.reply⟩

theorem soundState_raiseErr {s : State} (h : SoundState s) (e : Err) : SoundState (raiseErr e s) :=
  ⟨h.params, ⟨rfl, fun he => (nomatch he), fun _ => errCode_range e.code⟩, h.table, h.slots, h.rx, h.tx, h.reply⟩

theorem memSound_window {s : State} (h : SoundState s) (b : Buf) :
    memSound (s.memOf (spaceOf b)) (spaceSize s.params (spaceOf b)) := by
  cases b
  · exact h.rx
  · exact h.tx

theorem soundState_setMem {s : State} (h : SoundState s) {b : Buf} {m : Memory}
    (hm : memSound m (spaceSize s.params (spaceOf b))) : SoundState (s.setMem (spaceOf b) m) := by
  cases b
  · exact ⟨h.params, h.status, h.table, h.slots, hm, h.tx, h.reply⟩
  · exact ⟨h.params, h.status, h.table, h.slots, h.rx, hm, h.reply⟩

theorem soundState_slots {s : State} (h : SoundState s) {slots : List Slot} (hs : slotsSound s.params slots) :
    SoundState { s with slots := slots } :=
  ⟨h.params, h.status, h.table, hs, h.rx, h.tx, h.reply⟩

theorem soundState_addrs {s : State} (h : SoundState s) {t : List AddrEntry} (ht : tableSound s.params.nIpAddrs.toNat t) :
    SoundState { s with addrs := t } :=
  ⟨h.params, h.status, ht, h.slots, h.rx, h.tx, h.reply⟩

theorem soundState_ipv4Receive {s : State} (h : SoundState s) (f : Ipv4Info) (w : List Byte) :
    SoundState (ipv4Receive f w s).1 := by
  obtain ⟨slots, hist, hr, hfrag, -⟩ := ipv4Receive_effect f w s
  rw [hr]
  exact soundState_frame (soundState_slots h (slotsSound_fragSlots h.slots hfrag)) rfl

theorem soundState_putOutcome {s : State} (h : SoundState s) (o : RxOutcome) : SoundState (s.putOutcome o) :=
  soundState_frame h rfl

theorem soundState_effect {i : Instr} {s u : State} (h : SoundState s) (he : EffectKind i s u) : SoundState u := by
  cases he with
  | acc | results => exact soundState_frame h rfl
  | store b m hm => exact soundState_setMem h (hm (memSound_window h b))
  | receive b hi f p slots hist r hslots =>
    exact soundState_frame (soundState_slots h (slotsSound_fragSlots h.slots hslots)) rfl
  | flush hi r => exact soundState_frame (soundState_slots h (slotsSound_flushSlots h.slots (argSlot s))) rfl
  | insert hi hp hnew hroom r =>
    have hplen : ((argPrefixLen s).setWidth 6).toNat ≤ 32 := by
      rw [toNat_plen hp]
      exact hp
    exact soundState_frame
      (soundState_addrs h (tableSound_insertAddr h.table (not_mem_of_entryIs hp hnew) hplen hroom)) rfl
  | remove hi r =>
    exact soundState_frame (soundState_addrs h (tableSound_removeAddr h.table (argIp s) (argPrefixLen s))) rfl

/-- The reply fits TX_BUF, which is at least 64 bytes long (00_scope.md R7, 45_interface.md R240). -/
theorem soundState_repliedState {s : State} (h : SoundState s) (q : ArpRequest) {reply : List Byte}
    (hlen : reply.length ≤ 50) (snd : SendAnswer) : SoundState (repliedState q reply snd s) := by
  have hfits : 0 + reply.length ≤ s.params.txBufSize.toNat := by
    have hwf := h.params
    simp only [Params.wf, Bool.and_eq_true, decide_eq_true_eq] at hwf
    omega
  refine ⟨h.params, h.status, h.table, h.slots, h.rx, memSound_writeBytes h.tx hfits, ?_⟩
  show (BitVec.ofNat 16 reply.length).toNat ≤ 50
  rw [BitVec.toNat_ofNat]
  omega

theorem soundState_pollEnd {s t : State} (h : SoundState s) (hp : PollEnd s t) : SoundState t := by
  cases hp with
  | error e => exact soundState_raiseErr h e
  | drop r => exact soundState_complete (soundState_putOutcome h _)
  | ipv4 f w => exact soundState_complete (soundState_putOutcome (soundState_ipv4Receive h f w) _)
  | arpDrop q a r =>
    have hlearn : SoundState (emitArpLearn q.spa q.sha a s) := soundState_frame h rfl
    exact soundState_complete (soundState_putOutcome hlearn _)
  | replied q => exact soundState_complete (soundState_putOutcome (soundState_repliedState h q (replyTo_length_le q s) .ok) _)
  | sendFailed q => exact soundState_raiseErr (soundState_repliedState h q (replyTo_length_le q s) .fail) _

theorem soundState_exec {i : Instr} {s t : State} (h : SoundState s) (he : exec i s = .next t) : SoundState t := by
  by_cases hi : i = .rxPoll
  · subst hi
    rcases poll_cases he with ⟨-, rfl⟩ | ⟨-, hp⟩
    · exact soundState_complete (soundState_putOutcome h _)
    · have hconsumed : SoundState { s with rxPending := false } := soundState_frame h rfl
      exact soundState_pollEnd hconsumed hp
  · rcases exec_cases hi he with ⟨e, rfl⟩ | ⟨u, hu, rfl⟩
    · exact soundState_raiseErr h e
    · exact soundState_complete (soundState_effect h (okEffect_kind hu))

/-- A host write keeps a state sound: slot memory ignores it, and else its bytes lie inside the space. -/
theorem soundState_hostWrite {s : State} (h : SoundState s) {sp : Space} {i : Nat} {bs : List Byte}
    (hi : i + bs.length ≤ spaceSize s.params sp) : SoundState (hostWrite s sp i bs) := by
  cases sp with
  | rx => exact soundState_setMem (b := .rx) h (memSound_writeBytes h.rx hi)
  | tx => exact soundState_setMem (b := .tx) h (memSound_writeBytes h.tx hi)
  | slot k => exact h

/-- A reset state with legal parameters is sound. -/
theorem soundState_afterReset {p : Params} (h : p.wf = true) (epoch draws : Nat) (inbox : List HostOp) :
    SoundState (State.afterReset p epoch draws inbox) where
  params := h
  status := ⟨rfl, fun _ => ⟨rfl, rfl⟩, fun he => (nomatch he)⟩
  table := ⟨.nil, by simp [State.afterReset], Nat.zero_le _⟩
  slots := by
    have hfree : ∀ x ∈ List.replicate p.nFragSlots.toNat Slot.afterReset, x = Slot.afterReset :=
      fun x hx => List.eq_of_mem_replicate hx
    refine ⟨List.length_replicate, List.pairwise_of_forall_mem_list fun x hx y _ hv => ?_, fun x hx => ?_⟩
    · rw [hfree x hx] at hv
      exact nomatch hv
    · rw [hfree x hx]
      exact memSound_nil _
  rx := memSound_nil _
  tx := memSound_nil _
  reply := Nat.zero_le _

theorem soundState_opEffect {op : HostOp} {s t : State} (h : SoundState s) (he : OpEffect s op t) : SoundState t := by
  cases he with
  | read w addr v => exact soundState_frame h rfl
  | command w addr c i t hd hx => exact soundState_exec h hx
  | illegal w addr c => exact soundState_raiseErr h _
  | register w addr v r =>
    rw [writeReg_frame]
    exact soundState_frame h rfl
  | bytes w addr v sp i bs hi => exact soundState_hostWrite h hi
  | reset => exact soundState_afterReset h.params _ _ _

/-- Settles O15: what any operation does keeps a sound state sound. -/
theorem stepKeepsSound : Obligations.StepKeepsSound := by
  intro s t h hstep
  rcases step_cases hstep with ⟨-, rfl⟩ | ⟨op, rest, -, he⟩
  · exact h
  · have hrest : SoundState { s with inbox := rest } := soundState_frame h rfl
    exact soundState_opEffect hrest he

/-- Settles O14: the default parameters are legal. -/
theorem resetIsSound : Obligations.ResetIsSound := soundState_afterReset (by decide) 0 0 []

/-! ### The register map (10_state.md R21) -/

theorem fixedRegs_eq_registerRows : fixedRegs = registerRows := rfl

/-- In a table with one row per offset the lookup finds exactly the rows. -/
theorem regLookup_eq_some {t : List (Nat × Reg)} (ht : t.Pairwise fun x y => x.1 ≠ y.1) (off : Nat) (r : Reg) :
    regLookup t off = some r ↔ (off, r) ∈ t := by
  induction t with
  | nil => simp [regLookup]
  | cons x t ih =>
    obtain ⟨o, q⟩ := x
    obtain ⟨hne, ht⟩ := List.pairwise_cons.1 ht
    simp only [regLookup, List.mem_cons, Prod.mk.injEq]
    split
    · rename_i ho
      subst ho
      have hnot : (o, r) ∉ t := fun hm => hne _ hm rfl
      simp [hnot, eq_comm]
    · rename_i ho
      simp [ih ht, Ne.symm ho]

theorem regLookup_fixedRegs (off : Nat) (r : Reg) : regLookup fixedRegs off = some r ↔ (off, r) ∈ registerRows := by
  rw [fixedRegs_eq_registerRows]
  exact regLookup_eq_some (by decide) off r

/-- No fixed register lies among the indexed ones. -/
theorem registerRows_outside {off : Nat} {r : Reg} (h : (off, r) ∈ registerRows) : off < 0x080 ∨ 0x140 ≤ off := by
  have hall : ∀ x ∈ registerRows, x.1 < 0x080 ∨ 0x140 ≤ x.1 := by decide
  exact hall _ h

theorem indexedReg_ipAddr {p : Params} {i : Nat} (h : i < p.nIpAddrs.toNat) :
    indexedReg p (0x080 + 8 * i) = some (.ipAddr i) := by
  rw [indexedReg, if_pos (by omega), show (0x080 + 8 * i - 0x080) / 8 = i by omega]

theorem indexedReg_ipPrefix {p : Params} {i : Nat} (h : i < p.nIpAddrs.toNat) :
    indexedReg p (0x084 + 8 * i) = some (.ipPrefix i) := by
  rw [indexedReg, if_neg (by omega), if_pos (by omega), show (0x084 + 8 * i - 0x084) / 8 = i by omega]

theorem indexedReg_fragStat {p : Params} {k : Nat} (hn : p.nIpAddrs.toNat ≤ 16) (h : k < p.nFragSlots.toNat) :
    indexedReg p (0x100 + 4 * k) = some (.fragStat k) := by
  rw [indexedReg, if_neg (by omega), if_neg (by omega), if_pos (by omega),
    show (0x100 + 4 * k - 0x100) / 4 = k by omega]

theorem indexedReg_cases {p : Params} {off : Nat} {r : Reg} (h : indexedReg p off = some r) :
    (∃ i, i < p.nIpAddrs.toNat ∧ ((off = 0x080 + 8 * i ∧ r = .ipAddr i) ∨ (off = 0x084 + 8 * i ∧ r = .ipPrefix i)))
      ∨ ∃ k, k < p.nFragSlots.toNat ∧ off = 0x100 + 4 * k ∧ r = .fragStat k := by
  unfold indexedReg at h
  split at h
  · cases h
    exact .inl ⟨(off - 0x080) / 8, by omega, .inl ⟨by omega, rfl⟩⟩
  · split at h
    · cases h
      exact .inl ⟨(off - 0x084) / 8, by omega, .inr ⟨by omega, rfl⟩⟩
    · split at h
      · cases h
        exact .inr ⟨(off - 0x100) / 4, by omega, by omega, rfl⟩
      · cases h

/-- The table sizes are at most 16 (00_scope.md R7). -/
theorem wf_counts {p : Params} (h : p.wf = true) : p.nIpAddrs.toNat ≤ 16 ∧ p.nFragSlots.toNat ≤ 16 := by
  simp only [Params.wf, Bool.and_eq_true, decide_eq_true_eq] at h
  omega

/-- With legal parameters every register lies below offset 0x1000, at a multiple of 4. -/
theorem registerRow_aligned {p : Params} (h : p.wf = true) {off : Nat} {r : Reg} (hr : RegisterRow p off r) :
    off < 0x1000 ∧ off % 4 = 0 := by
  obtain ⟨hn, hk⟩ := wf_counts h
  rcases hr with hr | ⟨i, hi, ⟨rfl, -⟩ | ⟨rfl, -⟩⟩ | ⟨k, hk', rfl, -⟩
  · have hall : ∀ x ∈ registerRows, x.1 < 0x1000 ∧ x.1 % 4 = 0 := by decide
    exact hall _ hr
  · omega
  · omega
  · omega

/-- Settles O10: the fixed rows by lookup, the indexed ones by their arithmetic, which never meet. -/
theorem registerMapOffsets : Obligations.RegisterMapOffsets := by
  intro p hp off r
  obtain ⟨hn, hk⟩ := wf_counts hp
  unfold regAt
  constructor
  · intro h
    split at h
    · rename_i q hq
      cases h
      exact .inl ((regLookup_fixedRegs off _).1 hq)
    · exact .inr (indexedReg_cases h)
  · have unfixed : 0x080 ≤ off → off < 0x140 → regLookup fixedRegs off = none := fun h1 h2 => by
      cases hq : regLookup fixedRegs off with
      | none => rfl
      | some q =>
        have := registerRows_outside ((regLookup_fixedRegs off q).1 hq)
        omega
    rintro (h | ⟨i, hi, ⟨rfl, rfl⟩ | ⟨rfl, rfl⟩⟩ | ⟨k, hk', rfl, rfl⟩)
    · rw [(regLookup_fixedRegs off r).2 h]
    · rw [unfixed (by omega) (by omega)]
      exact indexedReg_ipAddr hi
    · rw [unfixed (by omega) (by omega)]
      exact indexedReg_ipPrefix hi
    · rw [unfixed (by omega) (by omega)]
      exact indexedReg_fragStat hn hk'

/-! ### Accesses to registers (20_memory.md R60, R63) -/

/-- A 32-bit access at the offset of a register reaches it. -/
theorem accessTarget_register {p : Params} (hp : p.wf = true) {addr : Word} {off : Nat} {r : Reg}
    (ha : addr.toNat = p.base.toNat + off) (hr : RegisterRow p off r) : accessTarget p .word addr = .ok (.reg r) := by
  obtain ⟨hlt, h4⟩ := registerRow_aligned hp hr
  have hoff : addr.toNat - p.base.toNat = off := by omega
  rw [accessTarget, hoff, if_neg (by omega), if_pos hlt, regTarget, if_neg (by simp), if_neg (by omega),
    (registerMapOffsets p hp off r).2 hr]

/-- CMD is at the base address, whatever the parameters. -/
theorem accessTarget_cmd (p : Params) : accessTarget p .word (cmdAddress p) = .ok (.reg .cmd) := by
  rw [accessTarget, cmdAddress, Nat.sub_self, if_neg (Nat.lt_irrefl _), if_pos (by decide)]
  rfl

/-- Settles O4: the write reaches CMD, which runs the decoded command. -/
theorem stepRunsDecodedCommand : Obligations.StepRunsDecodedCommand := by
  refine ⟨fun s c i rest hin hd => ?_, fun s hin => ?_⟩
  · simp only [step, stepInbox, hin, cmdWrite, perform, hostStore, accessTarget_cmd, runCommandWord, hd]
  · simp only [step, stepInbox, hin]

/-! ### Register writes (10_state.md R27 to R36) -/

/-- A host write to a register other than CMD performs `writeReg`. -/
theorem step_writeReg {s : State} {addr v : Word} {r : Reg} {rest : List HostOp}
    (hin : s.inbox = .write .word addr v :: rest) (ht : accessTarget s.params .word addr = .ok (.reg r)) (hr : r ≠ .cmd) :
    step s = .next (writeReg { s with inbox := rest } r v) := by
  simp only [step, stepInbox, hin, perform, hostStore, ht]

theorem writeReg_eq_registerWritten (s : State) (r : Reg) (v : Word) (rest : List HostOp) :
    writeReg { s with inbox := rest } r v = { registerWritten s v r with inbox := rest } := by
  cases r <;> rfl

section fields
variable (s : State) (r : Reg) (v : Word)

@[simp] theorem writeReg_ctrl : (writeReg s r v).ctrl = if r = .ctrl then Ctrl.ofWord v else s.ctrl := by
  cases r <;> simp [writeReg]

@[simp] theorem writeReg_a0 : (writeReg s r v).args.a0 = if r = .arg0 then v else s.args.a0 := by
  cases r <;> simp [writeReg]

@[simp] theorem writeReg_a1 : (writeReg s r v).args.a1 = if r = .arg1 then v else s.args.a1 := by
  cases r <;> simp [writeReg]

@[simp] theorem writeReg_a2 : (writeReg s r v).args.a2 = if r = .arg2 then v else s.args.a2 := by
  cases r <;> simp [writeReg]

@[simp] theorem writeReg_a3 : (writeReg s r v).args.a3 = if r = .arg3 then v else s.args.a3 := by
  cases r <;> simp [writeReg]

@[simp] theorem writeReg_a4 : (writeReg s r v).args.a4 = if r = .arg4 then v else s.args.a4 := by
  cases r <;> simp [writeReg]

@[simp] theorem writeReg_a5 : (writeReg s r v).args.a5 = if r = .arg5 then v else s.args.a5 := by
  cases r <;> simp [writeReg]

@[simp] theorem writeReg_macHi : (writeReg s r v).macHi = if r = .macHi then v else s.macHi := by
  cases r <;> simp [writeReg]

@[simp] theorem writeReg_macLo : (writeReg s r v).macLo = if r = .macLo then v.extractLsb' 0 16 else s.macLo := by
  cases r <;> simp [writeReg]

@[simp] theorem writeReg_vlanCfg :
    (writeReg s r v).vlanCfg = if r = .vlanCfg then VlanCfg.ofWord v else s.vlanCfg := by
  cases r <;> simp [writeReg]

@[simp] theorem writeReg_rxPending : (writeReg s r v).rxPending = if r = .rxStatus then v.getLsbD 0 else s.rxPending := by
  cases r <;> simp [writeReg]

@[simp] theorem writeReg_rxLen : (writeReg s r v).rxLen = if r = .rxLen then v.extractLsb' 0 16 else s.rxLen := by
  cases r <;> simp [writeReg]

end fields

/-- A register write changes what no other register reads. -/
theorem readReg_writeReg_ne (s : State) (v : Word) {r r' : Reg} (h : r' ≠ r) :
    readReg (writeReg s r v) r' = readReg s r' := by
  cases r' with
  | ctrl | arg0 | arg1 | arg2 | arg3 | arg4 | arg5 | macHi | macLo | vlanCfg | rxStatus | rxLen =>
    simp [readReg, rxStatusWord, Ne.symm h]
  | _ =>
    rw [writeReg_frame]
    rfl

theorem readByte_writeReg (s : State) (r : Reg) (v : Word) (sp : Space) (j : Nat) :
    (writeReg s r v).readByte sp j = s.readByte sp j := by
  rw [writeReg_frame]
  cases sp <;> rfl

/-- The low 16 bits of a word, widened again, are the word masked. -/
theorem low_bits_eq_and (v : Word) : (v.extractLsb' 0 16).setWidth 32 = v &&& 0x0000FFFF#32 := by
  apply BitVec.eq_of_getLsbD_eq
  intro i hi
  interval_cases i <;> simp

theorem ctrl_toWord_ofWord (v : Word) : (Ctrl.ofWord v).toWord = v &&& 0x00000007#32 := by
  apply BitVec.eq_of_getLsbD_eq
  intro i hi
  simp only [Ctrl.toWord, Ctrl.ofWord, bit, BitVec.getLsbD_append, BitVec.getLsbD_and, BitVec.getLsbD_ofBool]
  interval_cases i <;> simp

theorem vlanCfg_toWord_ofWord (v : Word) : (VlanCfg.ofWord v).toWord = v &&& 0x1FFF7FFF#32 := by
  apply BitVec.eq_of_getLsbD_eq
  intro i hi
  simp only [VlanCfg.toWord, VlanCfg.ofWord, bit, BitVec.getLsbD_append, BitVec.getLsbD_and, BitVec.getLsbD_ofBool,
    BitVec.getLsbD_extractLsb']
  interval_cases i <;> simp

theorem rxStatus_eq_and (v : Word) : 0#31 ++ bit (v.getLsbD 0) = v &&& 0x00000001#32 := by
  apply BitVec.eq_of_getLsbD_eq
  intro i hi
  simp only [BitVec.getLsbD_append, bit, BitVec.getLsbD_and, BitVec.getLsbD_ofBool]
  interval_cases i <;> simp

/-- A register reads back what was written, less its reserved bits; one without writable bits keeps its value. -/
theorem readReg_writeReg_same (s : State) (r : Reg) (v : Word) :
    readReg (writeReg s r v) r = if writableBits r = 0#32 then readReg s r else v &&& writableBits r := by
  cases r with
  | ctrl => simp [readReg, writableBits, ctrl_toWord_ofWord]
  | vlanCfg => simp [readReg, writableBits, vlanCfg_toWord_ofWord]
  | rxStatus => simp only [readReg, rxStatusWord, writeReg_rxPending, if_true, rxStatus_eq_and]; rfl
  | macLo => simp only [readReg, writeReg_macLo, if_true, low_bits_eq_and]; rfl
  | rxLen => simp only [readReg, writeReg_rxLen, if_true, low_bits_eq_and]; rfl
  | arg0 | arg1 | arg2 | arg3 | arg4 | arg5 | macHi =>
    have hall : v &&& 0xFFFFFFFF#32 = v := BitVec.and_allOnes
    simp [readReg, writableBits, hall]
  | _ => rfl

/-- Settles O9: the access reaches the register, and `writeReg` changes that register's field only. -/
theorem registerWriteReadsBack : Obligations.RegisterWriteReadsBack := by
  intro s addr v off r rest hp hin ha hrow hr
  have hstep := step_writeReg hin (accessTarget_register hp ha hrow) hr
  have hinbox : ∀ r', readReg { s with inbox := rest } r' = readReg s r' := fun r' => by cases r' <;> rfl
  refine ⟨_, hstep, writeReg_eq_registerWritten s r v rest, ?_, fun r' h => ?_, fun sp j => ?_, ?_⟩
  · rw [readReg_writeReg_same, hinbox]
  · rw [readReg_writeReg_ne _ v h, hinbox]
  · rw [readByte_writeReg]
    cases sp <;> rfl
  · rw [writeReg_frame]

/-! ### Constants, reset values and the address test (10_state.md R26, R39, R46) -/

theorem opEffect_params {op : HostOp} {s t : State} (h : OpEffect s op t) : t.params = s.params := by
  cases h with
  | read | illegal | reset => rfl
  | command w addr c i _ hd hx => rw [exec_frame hx]
  | register w addr v r => rw [writeReg_frame]
  | bytes w addr v sp i bs => rw [hostWrite_frame]

/-- Settles O13: the layouts are concatenations, and no operation writes the parameters. -/
theorem parameterRegisters : Obligations.ParameterRegisters := by
  intro s
  simp only [readReg]
  refine ⟨extract_right _ _, extract_left _ _, extract_right _ _, ?_, ?_, fun t h => ?_⟩
  · rw [extract_high _ _ 8 (by decide), extract_right]
  · rw [extract_high _ _ 8 (by decide), extract_left]
  · rcases step_cases h with ⟨-, rfl⟩ | ⟨op, rest, -, he⟩
    · rfl
    · rw [opEffect_params he]

/-- Every slot after a reset is free, with IDENT 0. -/
theorem slots_afterReset {p : Params} {epoch draws : Nat} {inbox : List HostOp} {x : Slot}
    (h : x ∈ (State.afterReset p epoch draws inbox).slots) : x.valid = false ∧ x.ident = 0#16 := by
  rw [List.eq_of_mem_replicate h]
  exact ⟨rfl, rfl⟩

/-- Every register but the three constants reads 0 after a reset. -/
theorem readReg_afterReset (p : Params) (epoch draws : Nat) (inbox : List HostOp) {r : Reg} (h1 : r ≠ .id)
    (h2 : r ≠ .param0) (h3 : r ≠ .param1) : readReg (State.afterReset p epoch draws inbox) r = 0#32 := by
  cases r with
  | id => exact absurd rfl h1
  | param0 => exact absurd rfl h2
  | param1 => exact absurd rfl h3
  | fragStat k =>
    simp only [readReg, fragStatReg]
    split
    · rename_i x hx
      obtain ⟨hv, hid⟩ := slots_afterReset (List.mem_of_getElem? hx)
      rw [hv, hid]
      rfl
    · rfl
  | status => exact (by decide : Status.toWord { busy := false, err := false, errCode := 0#8 } = 0#32)
  | ctrl => exact (by decide : Ctrl.toWord { medium := false, ipCsumEn := false, csumBypass := false } = 0#32)
  | vlanCfg => exact (by decide : VlanCfg.toWord (VlanCfg.ofWord 0#32) = 0#32)
  | rxStatus => exact (by decide : 0#31 ++ bit false = 0#32)
  | _ => rfl

/-- Settles O11: the registers by `readReg_afterReset`, the constants by evaluation at the default parameters. -/
theorem resetRegisterValues : Obligations.ResetRegisterValues :=
  ⟨fun _ h1 h2 h3 => readReg_afterReset _ _ _ _ h1 h2 h3, rfl, by decide, by decide, rfl, fun _ hx => slots_afterReset hx⟩

/-- Settles O49: `owned` tests the addresses of the entries only. -/
theorem ownedIsExactMatch : Obligations.OwnedIsExactMatch := by
  intro s a
  simp only [owned, List.any_eq_true, beq_iff_eq, List.mem_iff_getElem]
  constructor
  · rintro ⟨e, ⟨i, hi, rfl⟩, ha⟩
    exact ⟨i, hi, ha⟩
  · rintro ⟨i, hi, ha⟩
    exact ⟨s.addrs[i], ⟨i, hi, rfl⟩, ha⟩

/-! ### What each command writes: results, history and the shared state (10_state.md R30, R37, R38, R44, R48) -/

/-- A poll writes RES0 and RES1 at most, and none on an error (30_encoding.md R96). -/
theorem pollEnd_res {s t : State} (h : PollEnd s t) :
    (t.status.err = true → t.res = s.res) ∧ t.res = { s.res with r0 := t.res.r0, r1 := t.res.r1 } := by
  cases h with
  | error => exact ⟨fun _ => rfl, rfl⟩
  | drop | arpDrop => exact ⟨fun he => (nomatch he), rfl⟩
  | replied q =>
    generalize replyTo q s = reply
    exact ⟨fun he => (nomatch he), rfl⟩
  | sendFailed q =>
    generalize replyTo q s = reply
    exact ⟨fun _ => rfl, rfl⟩
  | ipv4 f w =>
    obtain ⟨slots, hist, hr, -⟩ := ipv4Receive_effect f w s
    rw [hr]
    exact ⟨fun he => (nomatch he), rfl⟩

/-- Settles O19: an error writes no result, and each effect writes the ones its rule names. -/
theorem unnamedResultsKeepTheirValues : Obligations.UnnamedResultsKeepTheirValues := by
  intro i s t h
  by_cases hi : i = .rxPoll
  · subst hi
    rcases poll_cases h with ⟨-, rfl⟩ | ⟨-, hp⟩
    · exact ⟨fun he => (nomatch he), rfl⟩
    · exact (pollEnd_res hp :)
  · rcases exec_cases hi h with ⟨e, rfl⟩ | ⟨u, hu, rfl⟩
    · refine ⟨fun _ => rfl, ?_⟩
      cases i with
      | ethParse => exact ⟨rfl, rfl⟩
      | vlanStrip | arpParse | ipv4Parse => trivial
      | _ => rfl
    · refine ⟨fun he => (nomatch he), ?_⟩
      cases i with
      | csumClear | csumBytes | csumWord | csumPseudo | csumVerify | fragFlush =>
        obtain ⟨x, rfl⟩ := hu
        rfl
      | ethSetDst b | ethSetSrc b | ethSetProto b | arpSetSrcMap b | arpSetTgtMap b | arpSetOper b =>
        obtain ⟨m, rfl, -⟩ := hu
        exact setMem_res s (spaceOf b) m
      | ethParse =>
        obtain ⟨f, rfl⟩ := hu
        exact ⟨rfl, rfl⟩
      | vlanStrip | arpParse | ipv4Parse => trivial
      | ipv4Input b =>
        obtain ⟨f, -, rfl⟩ := hu
        obtain ⟨slots, hist, hr, -⟩ := ipv4Receive_effect f (winBytes b s) s
        rw [hr]
        rfl
      | addrAdd =>
        obtain ⟨a, rfl, -⟩ := hu
        rfl
      | addrDel =>
        cases hu
        rfl
      | rxPoll => exact hu.elim

/-- Settles O22: RX_POLL by its frame, the other commands by the kind of their effect. -/
theorem whoWritesWhat : Obligations.WhoWritesWhat := by
  intro i s t h
  by_cases hi : i = .rxPoll
  · subst hi
    exact ⟨fun _ _ => by rw [poll_frame h], fun _ _ hn => absurd rfl hn, fun hn => absurd rfl hn, fun _ hn => absurd rfl hn⟩
  · rcases exec_cases hi h with ⟨e, rfl⟩ | ⟨u, hu, rfl⟩
    · exact ⟨fun _ _ => rfl, fun _ _ _ => rfl, fun _ => ⟨rfl, rfl, rfl⟩, fun _ _ => rfl⟩
    · have he := okEffect_kind hu
      simp only [complete_addrs, complete_slots, complete_txLen, complete_rxPending, complete_draws, complete_history]
      cases he with
      | acc | results => exact ⟨fun _ _ => rfl, fun _ _ _ => rfl, fun _ => ⟨rfl, rfl, rfl⟩, fun _ _ => rfl⟩
      | store b m =>
        cases b <;> exact ⟨fun _ _ => rfl, fun _ _ _ => rfl, fun _ => ⟨rfl, rfl, rfl⟩, fun _ _ => rfl⟩
      | receive b hb =>
        exact ⟨fun _ _ => rfl, fun hn _ _ => absurd hb (hn b), fun _ => ⟨rfl, rfl, rfl⟩, fun hn _ => absurd hb (hn b)⟩
      | flush hf =>
        exact ⟨fun _ _ => rfl, fun _ hn _ => absurd hf hn, fun _ => ⟨rfl, rfl, rfl⟩, fun _ _ => rfl⟩
      | insert ha =>
        exact ⟨fun hn _ => absurd ha hn, fun _ _ _ => rfl, fun _ => ⟨rfl, rfl, rfl⟩, fun _ _ => rfl⟩
      | remove hd =>
        exact ⟨fun _ hn => absurd hd hn, fun _ _ _ => rfl, fun _ => ⟨rfl, rfl, rfl⟩, fun _ _ => rfl⟩

theorem effectKind_history {i : Instr} {s u : State} (h : EffectKind i s u) : s.history <+: u.history := by
  cases h with
  | receive b hi f p slots hist r hslots hhist => exact hhist
  | store b m =>
    rw [setMem_history]
  | acc | results | flush | insert | remove => exact List.prefix_rfl

theorem pollEnd_history {s t : State} (h : PollEnd s t) : s.history <+: t.history := by
  cases h with
  | error | drop => exact List.prefix_rfl
  | ipv4 f w => exact ipv4Receive_history f w s
  | arpDrop => exact List.prefix_append _ _
  | replied q | sendFailed q =>
    generalize replyTo q s = reply
    exact List.prefix_append _ _

theorem exec_history {i : Instr} {s t : State} (h : exec i s = .next t) : s.history <+: t.history := by
  by_cases hi : i = .rxPoll
  · subst hi
    rcases poll_cases h with ⟨-, rfl⟩ | ⟨-, hp⟩
    · exact List.prefix_rfl
    · exact (pollEnd_history hp :)
  · rcases exec_cases hi h with ⟨e, rfl⟩ | ⟨u, hu, rfl⟩
    · exact List.prefix_rfl
    · exact (effectKind_history (okEffect_kind hu) :)

/-- Settles O23: only the platform reset empties the history, and a command appends to it. -/
theorem historyOnlyGrows : Obligations.HistoryOnlyGrows := by
  intro s t h hreset
  rcases step_cases h with ⟨-, rfl⟩ | ⟨op, rest, hin, he⟩
  · exact List.prefix_rfl
  · cases he with
    | read | illegal => exact List.prefix_rfl
    | command w addr c i _ hd hx => exact (exec_history hx :)
    | register w addr v r =>
      rw [writeReg_frame]
    | bytes w addr v sp i bs =>
      rw [hostWrite_frame]
    | reset => exact absurd hin (hreset rest)

/-! ### Fragments and the slots of other idents (10_state.md R41) -/

/-- The slot that `slot_for` picks is the ident's own or free, and the claim changes that slot only. -/
theorem slotFor_spec {id : Half} {slots new : List Slot} {k : Nat} (h : slotFor id slots = some (k, new)) :
    (∀ x, slots[k]? = some x → x.valid = true → x.ident = id) ∧ ∀ j, j ≠ k → new[j]? = slots[j]? := by
  rcases slotFor_cases id slots with ⟨m, hm, _, hid, e, _⟩ | ⟨m, hm, hfree, e, _⟩ | ⟨e, _⟩ <;> rw [e] at h <;> cases h
  · refine ⟨fun x hx _ => ?_, fun j _ => rfl⟩
    rw [List.getElem?_eq_getElem hm] at hx
    cases hx
    exact hid
  · refine ⟨fun x hx hv => ?_, fun j hj => ?_⟩
    · rw [List.getElem?_eq_getElem hm] at hx
      cases hx
      rw [hfree] at hv
      exact nomatch hv
    · simp [claimSlot, Ne.symm hj]

/-- A valid slot of another ident stays as it is when a fragment is received, its bytes included. -/
theorem fragSlots_other {f : Ipv4Info} {p : List Byte} {s : State} {new : List Slot} (h : FragSlots f p s new) {k : Nat}
    {x : Slot} (hx : s.slots[k]? = some x) (hv : x.valid = true) (hid : x.ident ≠ f.ident) : new[k]? = some x := by
  rcases h with rfl | ⟨m, slots, hs, -, hnew⟩
  · exact hx
  · obtain ⟨hown, hrest⟩ := slotFor_spec hs
    have hkm : k ≠ m := by
      rintro rfl
      exact hid (hown x hx hv)
    have hstored : (storedFragment f p m slots s).slots[k]? = some x := by
      rw [storedFragment_slots, ← hx, ← hrest k hkm]
      simp [setSlotData, Ne.symm hkm]
    rcases hnew with ⟨-, rfl⟩ | ⟨-, rfl⟩
    · exact hstored
    · rw [← hstored]
      simp [freeSlot, Ne.symm hkm]

/-- The receive branch leaves every valid slot whose ident it does not report. -/
theorem ipv4Receive_other {f : Ipv4Info} {w : List Byte} {s : State} {k : Nat} {x : Slot} (hx : s.slots[k]? = some x)
    (hv : x.valid = true) (hid : x.ident ≠ (ipv4Receive f w s).2.res1.extractLsb' 16 16) :
    (ipv4Receive f w s).1.slots[k]? = some x := by
  obtain ⟨slots, hist, hr, hslots, hident, -⟩ := ipv4Receive_effect f w s
  rw [res1_ident, hident] at hid
  rw [hr]
  exact fragSlots_other hslots hx hv hid

/-- Settles O47: IPV4_INPUT and the poll change slots in the receive branch only. -/
theorem otherIdentsKeepTheirSlots : Obligations.OtherIdentsKeepTheirSlots := by
  rintro i s t (rfl | ⟨b, rfl⟩) h
  · rcases poll_cases h with ⟨-, rfl⟩ | ⟨-, hp⟩
    · exact ⟨fun _ => rfl, fun _ k x hx _ _ => hx⟩
    · cases hp with
      | error | drop | arpDrop => exact ⟨fun _ => rfl, fun _ k x hx _ _ => hx⟩
      | replied q | sendFailed q =>
        generalize replyTo q _ = reply
        exact ⟨fun _ => rfl, fun _ k x hx _ _ => hx⟩
      | ipv4 f w => exact ⟨fun he => (nomatch he), fun _ k x hx hv hid => ipv4Receive_other hx hv hid⟩
  · rcases exec_cases (by simp) h with ⟨e, rfl⟩ | ⟨u, ⟨f, -, rfl⟩, rfl⟩
    · exact ⟨fun _ => rfl, fun he => (nomatch he)⟩
    · exact ⟨fun he => (nomatch he), fun _ k x hx hv hid => ipv4Receive_other hx hv hid⟩

/-! ### The accumulator (10_state.md R31)

Every operation but the checksum commands commutes with a change of the accumulator: run on the state with another
accumulator it does the same and leaves that accumulator. -/

/-- `s` with another accumulator. -/
def State.withAcc (s : State) (x : Half) : State := { s with csumAcc := x }

section fields
variable (s : State) (x : Half)

@[simp] theorem withAcc_params : (s.withAcc x).params = s.params := rfl

@[simp] theorem withAcc_ctrl : (s.withAcc x).ctrl = s.ctrl := rfl

@[simp] theorem withAcc_vlanCfg : (s.withAcc x).vlanCfg = s.vlanCfg := rfl

@[simp] theorem withAcc_rxPending : (s.withAcc x).rxPending = s.rxPending := rfl

@[simp] theorem withAcc_rxLen : (s.withAcc x).rxLen = s.rxLen := rfl

@[simp] theorem withAcc_addrs : (s.withAcc x).addrs = s.addrs := rfl

@[simp] theorem withAcc_slots : (s.withAcc x).slots = s.slots := rfl

end fields

theorem readByte_withAcc (s : State) (x : Half) (sp : Space) (j : Nat) :
    (s.withAcc x).readByte sp j = s.readByte sp j := by
  cases sp <;> rfl

@[simp] theorem readBytes_withAcc (s : State) (x : Half) (sp : Space) (i n : Nat) :
    (s.withAcc x).readBytes sp i n = s.readBytes sp i n :=
  readBytes_congr fun j _ _ => readByte_withAcc s x sp j

theorem writeBytes_withAcc (s : State) (x : Half) (sp : Space) (i : Nat) (bs : List Byte) :
    (s.withAcc x).writeBytes sp i bs = (s.writeBytes sp i bs).withAcc x := by
  cases sp <;> rfl

theorem finish_withAcc (s : State) (x : Half) (r : Except Err State) :
    finish (s.withAcc x) (r.map (·.withAcc x)) = (finish s r).withAcc x := by
  cases r <;> rfl

/-- A window command commutes with the change when its body does on the window's bytes. -/
theorem withWindow_withAcc {b : Buf} {s : State} {x : Half} {k k' : List Byte → Except Err State}
    (h : ∀ w, k' w = (k w).map (·.withAcc x)) : withWindow b (s.withAcc x) k' = (withWindow b s k).withAcc x := by
  have hbytes : winBytes b (s.withAcc x) = winBytes b s := readBytes_withAcc s x _ _ _
  by_cases hw : winBase s + winLen s ≤ spaceSize s.params (spaceOf b)
  · rw [withWindow_inside hw, withWindow_inside (s := s.withAcc x) hw, hbytes, h, finish_withAcc]
  · have hout : spaceSize s.params (spaceOf b) < winBase s + winLen s := Nat.lt_of_not_le hw
    rw [withWindow_outside hout, withWindow_outside (s := s.withAcc x) hout]
    rfl

/-! #### The bodies of the commands -/

section bodies
variable (s : State) (x : Half)

theorem ethParseBody_withAcc (w : List Byte) :
    ethParseBody (s.withAcc x) w = (ethParseBody s w).map (·.withAcc x) := by
  unfold ethParseBody
  cases ethClassify w <;> rfl

theorem vlanStripBody_withAcc (w : List Byte) :
    vlanStripBody (s.withAcc x) w = (vlanStripBody s w).map (·.withAcc x) := by
  unfold vlanStripBody
  cases ethClassify w <;> rfl

theorem arpParseBody_withAcc (w : List Byte) :
    arpParseBody (s.withAcc x) w = (arpParseBody s w).map (·.withAcc x) := by
  unfold arpParseBody
  cases arpAddrs w <;> rfl

theorem ipv4ParseBody_withAcc (w : List Byte) :
    ipv4ParseBody (s.withAcc x) w = (ipv4ParseBody s w).map (·.withAcc x) := by
  unfold ipv4ParseBody
  rw [withAcc_ctrl]
  cases ipv4Decode s.ctrl.csumBypass w <;> rfl

theorem winWrite_withAcc (b : Buf) (off : Nat) (bs : List Byte) :
    (s.withAcc x).winWrite b off bs = (s.winWrite b off bs).withAcc x :=
  writeBytes_withAcc s x _ _ bs

theorem winWrites_withAcc (b : Buf) (l : List (Nat × List Byte)) :
    (s.withAcc x).winWrites b l = (s.winWrites b l).withAcc x := by
  induction l generalizing s with
  | nil => rfl
  | cons p l ih =>
    simp only [State.winWrites, winWrite_withAcc, ih]

theorem setField_withAcc (b : Buf) (need off : Nat) (bs : List Byte) :
    setField b (s.withAcc x) need off bs = (setField b s need off bs).map (·.withAcc x) := by
  have hlen : winLen (s.withAcc x) = winLen s := rfl
  rw [setField_eq, setField_eq, hlen, winWrite_withAcc]
  split <;> rfl

theorem ethSetProtoBody_withAcc (b : Buf) :
    ethSetProtoBody b (s.withAcc x) = (ethSetProtoBody b s).map (·.withAcc x) := by
  have hkind : argPkind (s.withAcc x) = argPkind s := rfl
  unfold ethSetProtoBody
  rw [hkind]
  cases PKind.ofBits? (argPkind s) with
  | none => rfl
  | some k => exact setField_withAcc s x b _ _ _

theorem arpSetMap_withAcc (side : ArpSide) (b : Buf) (w : List Byte) :
    arpSetMap side b (s.withAcc x) w = (arpSetMap side b s w).map (·.withAcc x) := by
  have hhwk : argHwk (s.withAcc x) = argHwk s := rfl
  have hprk : argPrk (s.withAcc x) = argPrk s := rfl
  have hwrites : arpSetWrites side (s.withAcc x) w = arpSetWrites side s w := rfl
  simp only [arpSetMap, hhwk, hprk, hwrites, winWrites_withAcc]
  split
  · rfl
  · split <;> rfl

theorem fragFlushBody_withAcc : fragFlushBody (s.withAcc x) = (fragFlushBody s).map (·.withAcc x) := by
  unfold fragFlushBody
  by_cases h : argSlot s ≠ 0xFF#8 ∧ s.params.nFragSlots.toNat ≤ (argSlot s).toNat
  · rw [if_pos h]
    exact if_pos h
  · rw [if_neg h]
    exact if_neg h

theorem argIp_withAcc : argIp (s.withAcc x) = argIp s := rfl

theorem argPrefixLen_withAcc : argPrefixLen (s.withAcc x) = argPrefixLen s := rfl

theorem addrAddBody_withAcc : addrAddBody (s.withAcc x) = (addrAddBody s).map (·.withAcc x) := by
  unfold addrAddBody
  rw [argPrefixLen_withAcc, argIp_withAcc, withAcc_addrs, withAcc_params]
  repeat' split
  all_goals rfl

theorem addrDelBody_withAcc : addrDelBody (s.withAcc x) = (addrDelBody s).map (·.withAcc x) := by
  unfold addrDelBody
  rw [argPrefixLen_withAcc, argIp_withAcc, withAcc_addrs]
  split <;> rfl

/-! #### The receive branch -/

theorem dispatchL4_withAcc (f : Ipv4Info) (bs : List Byte) (slot : Option Nat) :
    dispatchL4 f bs slot (s.withAcc x) = (dispatchL4 f bs slot s).map (·.withAcc x) id := by
  unfold dispatchL4
  split
  · rfl
  · cases slot <;> rfl

theorem finishFrag_withAcc (f : Ipv4Info) (k len : Nat) :
    finishFrag f k len (s.withAcc x) = (finishFrag f k len s).map (·.withAcc x) id := by
  unfold finishFrag
  rw [readBytes_withAcc]
  exact dispatchL4_withAcc { s with slots := freeSlot k s.slots } x f _ _

theorem reassemble_withAcc (f : Ipv4Info) (p : List Byte) :
    reassemble f p (s.withAcc x) = (reassemble f p s).map (·.withAcc x) id := by
  unfold reassemble
  rw [withAcc_slots, withAcc_params]
  split
  · rfl
  · cases slotFor f.ident s.slots with
    | none => rfl
    | some r =>
      obtain ⟨k, slots⟩ := r
      cases f.mf with
      | true => rfl
      | false => exact finishFrag_withAcc (storedFragment f p k slots s) x f k _

theorem ipv4Receive_withAcc (f : Ipv4Info) (w : List Byte) :
    ipv4Receive f w (s.withAcc x) = (ipv4Receive f w s).map (·.withAcc x) id := by
  unfold ipv4Receive
  rw [withAcc_ctrl, dispatchL4_withAcc, reassemble_withAcc]
  repeat' split
  all_goals rfl

theorem ipv4InputOn_withAcc (w : List Byte) :
    ipv4InputOn (s.withAcc x) w = (ipv4InputOn s w).map (·.map (·.withAcc x) id) := by
  unfold ipv4InputOn
  rw [withAcc_ctrl]
  cases ipv4Decode s.ctrl.csumBypass w with
  | error e => rfl
  | ok f => exact congrArg Except.ok (ipv4Receive_withAcc s x f w)

theorem ipv4InputBody_withAcc (w : List Byte) :
    ipv4InputBody (s.withAcc x) w = (ipv4InputBody s w).map (·.withAcc x) := by
  unfold ipv4InputBody
  rw [ipv4InputOn_withAcc]
  cases ipv4InputOn s w <;> rfl

/-! #### The poll -/

/-- The end of a poll step with another accumulator. -/
def pollWithAcc (x : Half) : PollResult → PollResult
  | .error e => .error { e with survive := e.survive.withAcc x }
  | .ok r => .ok (r.map (·.withAcc x) id)

theorem finishPoll_withAcc (r : PollResult) : finishPoll (pollWithAcc x r) = (finishPoll r).withAcc x := by
  cases r <;> rfl

theorem pollIpv4_withAcc (p : List Byte) : pollIpv4 p (s.withAcc x) = pollWithAcc x (pollIpv4 p s) := by
  unfold pollIpv4
  rw [ipv4InputOn_withAcc]
  cases ipv4InputOn s p <;> rfl

theorem pollArpReplyStep_withAcc (snd : SendAnswer) (q : ArpRequest) :
    pollArpReplyStep snd q (s.withAcc x) = pollWithAcc x (pollArpReplyStep snd q s) := by
  have hmac : ownMac (s.withAcc x) = ownMac s := rfl
  unfold pollArpReplyStep
  rw [hmac, withAcc_vlanCfg]
  generalize arpReplyFrame (ownMac s) (txTags s.vlanCfg) q = reply
  cases snd <;> rfl

theorem pollArpAct_withAcc (arp : ArpAnswer) (snd : SendAnswer) (q : ArpRequest) :
    pollArpAct arp snd q (s.withAcc x) = pollWithAcc x (pollArpAct arp snd q s) := by
  have howned : ∀ t : State, owned (t.withAcc x) q.tpa = owned t q.tpa := fun _ => rfl
  have hlearn : emitArpLearn q.spa q.sha arp (s.withAcc x) = (emitArpLearn q.spa q.sha arp s).withAcc x := rfl
  unfold pollArpAct
  simp only [hlearn, howned, pollArpReplyStep_withAcc]
  cases arp with
  | noSpace => rfl
  | ok =>
    simp only
    split <;> rfl

theorem pollArp_withAcc (arp : ArpAnswer) (snd : SendAnswer) (p : List Byte) :
    pollArp arp snd p (s.withAcc x) = pollWithAcc x (pollArp arp snd p s) := by
  unfold pollArp
  cases pollArpCheck p with
  | error e => rfl
  | ok q => exact pollArpAct_withAcc s x arp snd q

theorem pollL3_withAcc (arp : ArpAnswer) (snd : SendAnswer) (l3 : L3Class) (p : List Byte) :
    pollL3 arp snd l3 p (s.withAcc x) = pollWithAcc x (pollL3 arp snd l3 p s) := by
  cases l3 with
  | arp => exact pollArp_withAcc s x arp snd p
  | ipv4 => exact pollIpv4_withAcc s x p
  | ipv6 | other => rfl

theorem pollEthernet_withAcc (arp : ArpAnswer) (snd : SendAnswer) (w : List Byte) :
    pollEthernet arp snd w (s.withAcc x) = pollWithAcc x (pollEthernet arp snd w s) := by
  have hdst : dstAccepted (s.withAcc x) (rd48 w 0) = dstAccepted s (rd48 w 0) := rfl
  unfold pollEthernet
  cases ethClassify w with
  | error e => rfl
  | ok f =>
    simp only [hdst, withAcc_vlanCfg, pollL3_withAcc]
    split
    · cases vlanCheck s.vlanCfg f.pkind f.vid0 f.vid1 <;> rfl
    · rfl

theorem pollIp_withAcc (w : List Byte) : pollIp w (s.withAcc x) = pollWithAcc x (pollIp w s) := by
  unfold pollIp
  rw [pollIpv4_withAcc]
  repeat' split
  all_goals rfl

theorem pollFrame_withAcc (arp : ArpAnswer) (snd : SendAnswer) :
    pollFrame arp snd (s.withAcc x) = pollWithAcc x (pollFrame arp snd s) := by
  have hframe : rxFrame (s.withAcc x) = rxFrame s := readBytes_withAcc s x _ _ _
  unfold pollFrame
  rw [withAcc_rxLen, withAcc_params, withAcc_ctrl, hframe, pollIp_withAcc, pollEthernet_withAcc]
  repeat' split
  all_goals rfl

theorem rxPollWith_withAcc (arp : ArpAnswer) (snd : SendAnswer) :
    rxPollWith arp snd (s.withAcc x) = (rxPollWith arp snd s).withAcc x := by
  have hframe := pollFrame_withAcc { s with rxPending := false } x arp snd
  unfold rxPollWith
  rw [withAcc_rxPending]
  split
  · rw [← finishPoll_withAcc, ← hframe]
    rfl
  · rfl

end bodies

/-- A command that is no checksum command commutes with a change of the accumulator. -/
theorem exec_withAcc {i : Instr} {s t : State} (x : Half) (hclear : i ≠ .csumClear) (hbytes : ∀ b, i ≠ .csumBytes b)
    (hword : i ≠ .csumWord) (hpseudo : i ≠ .csumPseudo) (hverify : i ≠ .csumVerify) (h : exec i s = .next t) :
    exec i (s.withAcc x) = .next (t.withAcc x) := by
  have fin : ∀ r r' : Except Err State, r' = r.map (·.withAcc x) → finish (s.withAcc x) r' = (finish s r).withAcc x := by
    rintro r _ rfl
    exact finish_withAcc s x r
  cases i with
  | csumClear => exact absurd rfl hclear
  | csumBytes b => exact absurd rfl (hbytes b)
  | csumWord => exact absurd rfl hword
  | csumPseudo => exact absurd rfl hpseudo
  | csumVerify => exact absurd rfl hverify
  | ethParse b =>
    cases h
    exact congrArg _ (withWindow_withAcc (ethParseBody_withAcc s x))
  | ethSetDst b | ethSetSrc b | arpSetOper b =>
    cases h
    exact congrArg _ (withWindow_withAcc fun _ => setField_withAcc s x b _ _ _)
  | ethSetProto b =>
    cases h
    exact congrArg _ (withWindow_withAcc fun _ => ethSetProtoBody_withAcc s x b)
  | vlanStrip b =>
    cases h
    exact congrArg _ (withWindow_withAcc (vlanStripBody_withAcc s x))
  | arpParse b =>
    cases h
    exact congrArg _ (withWindow_withAcc (arpParseBody_withAcc s x))
  | arpSetSrcMap b =>
    cases h
    exact congrArg _ (withWindow_withAcc (arpSetMap_withAcc s x .src b))
  | arpSetTgtMap b =>
    cases h
    exact congrArg _ (withWindow_withAcc (arpSetMap_withAcc s x .tgt b))
  | ipv4Parse b =>
    cases h
    exact congrArg _ (withWindow_withAcc (ipv4ParseBody_withAcc s x))
  | ipv4Input b =>
    cases h
    exact congrArg _ (withWindow_withAcc (ipv4InputBody_withAcc s x))
  | fragFlush =>
    cases h
    exact congrArg _ (fin _ _ (fragFlushBody_withAcc s x))
  | addrAdd =>
    cases h
    exact congrArg _ (fin _ _ (addrAddBody_withAcc s x))
  | addrDel =>
    cases h
    exact congrArg _ (fin _ _ (addrDelBody_withAcc s x))
  | rxPoll =>
    cases h
    exact congrArg _ (rxPollWith_withAcc s x _ _)

/-- Settles O20: that the accumulator stays is the commutation for the accumulator the state has. -/
theorem onlyChecksumCommandsTouchAcc : Obligations.OnlyChecksumCommandsTouchAcc := by
  intro i s t x hclear hbytes hword hpseudo hverify h
  have hsame := exec_withAcc s.csumAcc hclear hbytes hword hpseudo hverify h
  have ht : t = t.withAcc s.csumAcc := Host.Outcome.next.inj (h.symm.trans hsame)
  refine ⟨?_, exec_withAcc x hclear hbytes hword hpseudo hverify h⟩
  rw [ht]
  rfl

end Sys2Proof.Machine
end

section
/-!
PROOFS. The memory statements (20_memory.md). First the facts they share: which accesses the bus serves, what the step
of a host read or write does with the target it reaches, and which bytes a command writes.
-/

namespace Sys2Proof.Machine

open Sys2Proof

/-! ### What an access reaches (20_memory.md R60, R63) -/

/-- The map is one-to-one: the spaces are at least 0x10000 apart and no space is longer than that. -/
theorem spaceAt_iff (p : Params) (off : Nat) (sp : Space) (i : Nat) :
    spaceAt p off = some (sp, i) ↔ off = spaceStart sp + i ∧ i < spaceBytes p sp := by
  have hrx := p.rxBufSize.isLt
  have htx := p.txBufSize.isLt
  have hfrag := p.fragBufSize.isLt
  unfold spaceAt rxBufOffset txBufOffset slotOffset slotStride
  constructor
  · intro h
    split at h
    · cases h
      simp only [spaceStart, spaceBytes]
      omega
    · split at h
      · cases h
        simp only [spaceStart, spaceBytes]
        omega
      · split at h
        · rename_i hs
          cases h
          simp only [spaceStart, spaceBytes, if_pos hs.2.1]
          omega
        · cases h
  · rintro ⟨hoff, hi⟩
    cases sp with
    | rx =>
      simp only [spaceStart, spaceBytes] at hoff hi
      rw [if_pos (by omega), show off - 0x00010000 = i by omega]
    | tx =>
      simp only [spaceStart, spaceBytes] at hoff hi
      rw [if_neg (by omega), if_pos (by omega), show off - 0x00020000 = i by omega]
    | slot k =>
      simp only [spaceStart, spaceBytes] at hoff hi
      split at hi
      · have hk : (off - 0x00100000) / 0x10000 = k := by omega
        have hm : (off - 0x00100000) % 0x10000 = i := by omega
        rw [if_neg (by omega), if_neg (by omega), if_pos (by omega), hk, hm]
      · omega

theorem spaceStart_ge (sp : Space) : 0x10000 ≤ spaceStart sp := by
  cases sp with
  | rx | tx => decide
  | slot k =>
    simp only [spaceStart]
    omega

theorem spaceStart_aligned (sp : Space) : spaceStart sp % 4 = 0 := by
  cases sp with
  | rx | tx => decide
  | slot k =>
    simp only [spaceStart]
    omega

/-- An access to a byte of a space is decided by the rules of the byte spaces. -/
theorem accessTarget_space {p : Params} (w : Width) {addr : Word} {sp : Space} {i : Nat}
    (ha : addr.toNat = p.base.toNat + spaceStart sp + i) :
    accessTarget p w addr = spaceTarget p w (spaceStart sp + i) := by
  have hge := spaceStart_ge sp
  rw [accessTarget, if_neg (by omega), if_neg (by omega),
    show addr.toNat - p.base.toNat = spaceStart sp + i by omega]

theorem accessTarget_byteIn {p : Params} {addr : Word} {sp : Space} {i : Nat}
    (ha : addr.toNat = p.base.toNat + spaceStart sp + i) (hi : i < spaceBytes p sp) :
    accessTarget p .byte addr = .ok (.byteIn sp i) := by
  rw [accessTarget_space _ ha, spaceTarget, (spaceAt_iff p _ sp i).2 ⟨rfl, hi⟩]

theorem accessTarget_wordIn {p : Params} {addr : Word} {sp : Space} {i : Nat}
    (ha : addr.toNat = p.base.toNat + spaceStart sp + i) (h4 : i % 4 = 0) (hi : i + 4 ≤ spaceBytes p sp) :
    accessTarget p .word addr = .ok (.wordIn sp i) := by
  have halign := spaceStart_aligned sp
  rw [accessTarget_space _ ha, spaceTarget, (spaceAt_iff p _ sp i).2 ⟨rfl, by omega⟩]
  simp only [spaceSize_eq_spaceBytes]
  rw [if_neg (by omega), if_pos hi]

/-- Every register lies below offset 0x1000, also when the parameters are not legal. -/
theorem registerRow_below {p : Params} {off : Nat} {r : Reg} (hr : RegisterRow p off r) : off < 0x1000 := by
  have hn := p.nIpAddrs.isLt
  have hk := p.nFragSlots.isLt
  rcases hr with hr | ⟨i, hi, ⟨rfl, -⟩ | ⟨rfl, -⟩⟩ | ⟨k, hk', rfl, -⟩
  · have hall : ∀ x ∈ registerRows, x.1 < 0x1000 := by decide
    exact hall _ hr
  · omega
  · omega
  · omega

/-- An offset is mapped when some row of the table puts a register there. With parameters that are not legal two rows
can meet at one offset, so the register found need not be the row's own. -/
theorem regAt_mapped (p : Params) (off : Nat) : (∃ r, regAt p off = some r) ↔ ∃ r, RegisterRow p off r := by
  unfold regAt
  cases hq : regLookup fixedRegs off with
  | some q => exact ⟨fun _ => ⟨q, .inl ((regLookup_fixedRegs off q).1 hq)⟩, fun _ => ⟨q, rfl⟩⟩
  | none =>
    constructor
    · rintro ⟨r, h⟩
      exact ⟨r, .inr (indexedReg_cases h)⟩
    · rintro ⟨r, h | ⟨i, hi, ⟨rfl, rfl⟩ | ⟨rfl, rfl⟩⟩ | ⟨k, hk, rfl, rfl⟩⟩
      · rw [(regLookup_fixedRegs off r).2 h] at hq
        cases hq
      · exact ⟨_, indexedReg_ipAddr hi⟩
      · exact ⟨_, indexedReg_ipPrefix hi⟩
      · show ∃ r, indexedReg p (0x100 + 4 * k) = some r
        unfold indexedReg
        split
        · exact ⟨_, rfl⟩
        · split
          · exact ⟨_, rfl⟩
          · rw [if_pos (by omega)]
            exact ⟨_, rfl⟩

/-- What an access to the register space must be to reach something. -/
theorem regTarget_ok {p : Params} {w : Width} {off : Nat} {tg : Target} (h : regTarget p w off = .ok tg) :
    w = .word ∧ off % 4 = 0 ∧ ∃ r, regAt p off = some r := by
  unfold regTarget at h
  split at h
  · cases h
  · rename_i hw
    split at h
    · cases h
    · rename_i h4
      split at h
      · rename_i r hr
        exact ⟨not_not.1 hw, not_not.1 h4, r, hr⟩
      · cases h

/-- What an access to a byte space must be to reach something. -/
theorem spaceTarget_ok {p : Params} {w : Width} {off : Nat} {tg : Target} (h : spaceTarget p w off = .ok tg) :
    ∃ sp i, spaceAt p off = some (sp, i) ∧ (w = .byte ∨ (w = .word ∧ off % 4 = 0 ∧ i + 4 ≤ spaceBytes p sp)) := by
  unfold spaceTarget at h
  split at h
  · cases h
  · rename_i sp i hsp
    refine ⟨sp, i, hsp, ?_⟩
    cases w with
    | byte => exact .inl rfl
    | half => cases h
    | word =>
      simp only [spaceSize_eq_spaceBytes] at h
      split at h
      · cases h
      · rename_i h4
        split at h
        · rename_i hend
          exact .inr ⟨rfl, not_not.1 h4, hend⟩
        · cases h

/-- The bus serves an access exactly when it reaches something. -/
theorem served_iff (p : Params) (w : Width) (addr : Word) :
    Served p w addr ↔ ∃ tg, accessTarget p w addr = .ok tg := by
  constructor
  · rintro ⟨off, ha, ⟨rfl, h4, r, hr⟩ | ⟨sp, i, rfl, hi, hw⟩⟩
    · obtain ⟨q, hq⟩ := (regAt_mapped p off).2 ⟨r, hr⟩
      have hlt := registerRow_below hr
      have hoff : addr.toNat - p.base.toNat = off := by omega
      refine ⟨.reg q, ?_⟩
      rw [accessTarget, hoff, if_neg (by omega), if_pos hlt, regTarget, if_neg (by simp), if_neg (by omega), hq]
    · rw [← Nat.add_assoc] at ha
      rcases hw with rfl | ⟨rfl, h4, hend⟩
      · exact ⟨_, accessTarget_byteIn ha hi⟩
      · have halign := spaceStart_aligned sp
        exact ⟨_, accessTarget_wordIn ha (by omega) hend⟩
  · rintro ⟨tg, h⟩
    unfold accessTarget at h
    split at h
    · cases h
    · refine ⟨addr.toNat - p.base.toNat, by omega, ?_⟩
      split at h
      · obtain ⟨hw, h4, hr⟩ := regTarget_ok h
        exact .inl ⟨hw, h4, (regAt_mapped p _).1 hr⟩
      · obtain ⟨sp, i, hsp, hw⟩ := spaceTarget_ok h
        obtain ⟨hoff, hi⟩ := (spaceAt_iff p _ sp i).1 hsp
        exact .inr ⟨sp, i, hoff, hi, hw⟩

/-! ### The step of a host access (20_memory.md R64, R65) -/

section access
variable {s : State} {w : Width} {addr v : Word} {rest : List HostOp}

theorem step_read (hin : s.inbox = .read w addr :: rest) : step s = hostRead w addr { s with inbox := rest } := by
  simp only [step, stepInbox, hin, perform]

theorem step_write (hin : s.inbox = .write w addr v :: rest) :
    step s = hostStore w addr v { s with inbox := rest } := by
  simp only [step, stepInbox, hin, perform]

/-- The operations that wait take no part in what a byte holds. -/
theorem readByte_inbox (s : State) (rest : List HostOp) (sp : Space) (j : Nat) :
    State.readByte { s with inbox := rest } sp j = s.readByte sp j := by
  cases sp <;> rfl

/-- Neither they nor the value the host read last take part in what a read returns. -/
theorem readTarget_inbox_busData (s : State) (rest : List HostOp) (d : Option Word) (tg : Target) :
    readTarget { s with inbox := rest, busData := d } tg = readTarget s tg := by
  cases tg with
  | reg r => cases r <;> rfl
  | byteIn sp i => cases sp <;> rfl
  | wordIn sp i => cases sp <;> rfl

/-- A read that the bus serves returns the value of its target and does nothing else. -/
theorem step_read_next (hin : s.inbox = .read w addr :: rest) {tg : Target} (ht : accessTarget s.params w addr = .ok tg) :
    step s = .next { s with inbox := rest, busData := some (readTarget s tg) } := by
  rw [step_read hin, ← readTarget_inbox_busData s rest s.busData]
  simp only [hostRead, ht]

/-- A read that answers a next state was served. -/
theorem target_of_step_read {t : State} (hin : s.inbox = .read w addr :: rest) (h : step s = .next t) :
    ∃ tg, accessTarget s.params w addr = .ok tg := by
  rw [step_read hin] at h
  simp only [hostRead] at h
  split at h
  · cases h
  · rename_i tg ht
    exact ⟨tg, ht⟩

/-- Every command answers a next state (60_exceptions.md R268). -/
theorem exec_answers (i : Instr) (s : State) : ∃ t, exec i s = .next t := by
  cases i <;> exact ⟨_, rfl⟩

theorem runCommandWord_answers (c : Word) (s : State) : ∃ t, runCommandWord c s = .next t := by
  unfold runCommandWord
  cases decode c with
  | ok i => exact exec_answers i s
  | error e => exact ⟨_, rfl⟩

/-- A write that the bus serves answers a next state. -/
theorem hostStore_answers {tg : Target} (ht : accessTarget s.params w addr = .ok tg) (v : Word) :
    ∃ t, hostStore w addr v s = .next t := by
  cases tg with
  | reg r =>
    by_cases hr : r = .cmd
    · subst hr
      simpa only [hostStore, ht] using runCommandWord_answers v s
    · simp only [hostStore, ht]
      exact ⟨_, rfl⟩
  | byteIn sp i =>
    simp only [hostStore, ht]
    exact ⟨_, rfl⟩
  | wordIn sp i =>
    simp only [hostStore, ht]
    exact ⟨_, rfl⟩

end access

/-- Settles O6: an access faults exactly when it reaches nothing, and `served_iff` says when that is. -/
theorem unservedAccessesFault : Obligations.UnservedAccessesFault := by
  intro s w addr v rest hin
  rw [served_iff]
  constructor
  · intro hno
    cases ht : accessTarget s.params w addr with
    | ok tg => exact absurd ⟨tg, ht⟩ hno
    | error e =>
      refine ⟨e, ?_⟩
      rcases hin with hin | hin
      · simp only [step_read hin, hostRead, ht]
      · simp only [step_write hin, hostStore, ht]
  · rintro ⟨tg, ht⟩
    rcases hin with hin | hin
    · exact ⟨_, step_read_next hin ht⟩
    · rw [step_write hin]
      exact hostStore_answers (s := { s with inbox := rest }) ht v

/-! ### What a register reads as (10_state.md R22 to R40) -/

/-- A bit that lies in the high part of a concatenation. -/
theorem getLsbD_append_high {m n : Nat} (a : BitVec m) (b : BitVec n) {k : Nat} (h : n ≤ k) :
    (a ++ b).getLsbD k = a.getLsbD (k - n) := by
  rw [BitVec.getLsbD_append, if_neg (by omega)]

/-- Bit 0 of a concatenation whose lowest field is one bit. -/
theorem getLsbD_append_bit {n : Nat} (a : BitVec n) (b : Bool) : (a ++ bit b).getLsbD 0 = b := by
  simp only [BitVec.getLsbD_append, bit, BitVec.getLsbD_ofBool]
  simp

theorem status_fields (t : Status) :
    t.toWord.getLsbD 0 = t.busy ∧ t.toWord.getLsbD 1 = t.err ∧ t.toWord.extractLsb' 2 6 = 0#6
      ∧ t.toWord.extractLsb' 8 8 = t.errCode ∧ t.toWord.extractLsb' 16 16 = 0#16 := by
  unfold Status.toWord
  refine ⟨getLsbD_append_bit _ _, ?_, ?_, ?_, ?_⟩
  · simp only [getLsbD_append_high, getLsbD_append_bit, Nat.reduceSub, Nat.le_refl]
  · rw [extract_high _ _ _ (by omega), extract_high _ _ _ (by omega), extract_right]
  · rw [extract_high _ _ _ (by omega), extract_high _ _ _ (by omega), extract_high _ _ _ (by omega), extract_right]
  · rw [extract_high _ _ _ (by omega), extract_high _ _ _ (by omega), extract_high _ _ _ (by omega), extract_left]

theorem ctrl_fields (c : Ctrl) :
    c.toWord.getLsbD 0 = c.medium ∧ c.toWord.getLsbD 1 = c.ipCsumEn ∧ c.toWord.getLsbD 2 = c.csumBypass
      ∧ c.toWord.extractLsb' 3 29 = 0#29 := by
  unfold Ctrl.toWord
  refine ⟨getLsbD_append_bit _ _, ?_, ?_, ?_⟩
  · simp only [getLsbD_append_high, getLsbD_append_bit, Nat.reduceSub, Nat.le_refl]
  · simp only [getLsbD_append_high, getLsbD_append_bit, Nat.reduceLeDiff, Nat.reduceSub, Nat.le_refl]
  · rw [extract_high _ _ _ (by omega), extract_high _ _ _ (by omega), extract_left]

theorem vlanCfg_fields (c : VlanCfg) :
    c.toWord.extractLsb' 0 12 = c.vid0 ∧ c.toWord.getLsbD 12 = c.vid0En ∧ c.toWord.getLsbD 13 = c.txTag0
      ∧ c.toWord.getLsbD 14 = c.txTag1 ∧ c.toWord.getLsbD 15 = false ∧ c.toWord.extractLsb' 16 12 = c.vid1
      ∧ c.toWord.getLsbD 28 = c.vid1En ∧ c.toWord.extractLsb' 29 3 = 0#3 := by
  unfold VlanCfg.toWord
  refine ⟨extract_right _ _, ?_, ?_, ?_, ?_, ?_, ?_, ?_⟩
  · simp only [getLsbD_append_high, getLsbD_append_bit, Nat.reduceSub, Nat.le_refl]
  · simp only [getLsbD_append_high, getLsbD_append_bit, Nat.reduceLeDiff, Nat.reduceSub, Nat.le_refl]
  · simp only [getLsbD_append_high, getLsbD_append_bit, Nat.reduceLeDiff, Nat.reduceSub, Nat.le_refl]
  · simp only [getLsbD_append_high, Nat.reduceLeDiff, Nat.reduceSub, Nat.le_refl]
    exact getLsbD_append_bit _ false
  · rw [extract_high _ _ _ (by omega), extract_high _ _ _ (by omega), extract_high _ _ _ (by omega),
      extract_high _ _ _ (by omega), extract_high _ _ _ (by omega), extract_right]
  · simp only [getLsbD_append_high, getLsbD_append_bit, Nat.reduceLeDiff, Nat.reduceSub, Nat.le_refl]
  · rw [extract_high _ _ _ (by omega), extract_high _ _ _ (by omega), extract_high _ _ _ (by omega),
      extract_high _ _ _ (by omega), extract_high _ _ _ (by omega), extract_high _ _ _ (by omega), extract_left]

/-- A field widened to a register: the field below, zeros above. -/
theorem setWidth_fields {n m : Nat} (x : BitVec n) (h : n + m = 32) :
    (x.setWidth 32).extractLsb' 0 n = x ∧ (x.setWidth 32).extractLsb' n m = 0#m := by
  constructor
  · apply BitVec.eq_of_getLsbD_eq
    intro i hi
    simp [hi]
    omega
  · apply BitVec.eq_of_getLsbD_eq
    intro i hi
    simp [hi]

theorem fragStat_fields {s : State} {k : Nat} {x : Slot} (hx : s.slots[k]? = some x) :
    (fragStatReg s k).getLsbD 0 = x.valid ∧ (fragStatReg s k).extractLsb' 1 15 = 0#15
      ∧ (fragStatReg s k).extractLsb' 16 16 = x.ident := by
  simp only [fragStatReg, hx]
  refine ⟨getLsbD_append_bit _ _, ?_, ?_⟩
  · rw [extract_high _ _ _ (by omega), extract_right]
  · rw [extract_high _ _ _ (by omega), extract_left]

/-- What a register reads as has the layout of that register. -/
theorem readReg_holds (s : State) (r : Reg) : RegisterHolds s (readReg s r) r := by
  cases r with
  | status => exact status_fields s.status
  | ctrl => exact ctrl_fields s.ctrl
  | vlanCfg => exact vlanCfg_fields s.vlanCfg
  | csumAcc | macLo | rxLen | txLen | ipCount => exact setWidth_fields _ rfl
  | rxStatus => exact ⟨getLsbD_append_bit _ _, extract_left _ _⟩
  | ipAddr i =>
    refine ⟨fun e he => ?_, fun hi => ?_⟩
    · simp only [readReg, ipAddrReg, he]
    · simp only [readReg, ipAddrReg, List.getElem?_eq_none hi]
  | ipPrefix i =>
    refine ⟨fun e he => ?_, fun hi => ?_⟩
    · simp only [readReg, ipPrefixReg, he]
      exact setWidth_fields _ rfl
    · simp only [readReg, ipPrefixReg, List.getElem?_eq_none hi]
  | fragStat k => exact fun x hx => fragStat_fields hx
  | param0 => exact ⟨extract_right _ _, extract_left _ _⟩
  | param1 =>
    obtain ⟨-, -, hfrag, hslots, haddrs, -⟩ := parameterRegisters s
    exact ⟨hfrag, hslots, haddrs⟩
  | _ => exact rfl

/-- Settles O5: both reads return the value of one target, which no read changes. -/
theorem readsHaveNoSideEffect : Obligations.ReadsHaveNoSideEffect := by
  refine ⟨fun s t u w addr rest hin hs ht => ?_, fun s addr off r rest hp hin ha hr => ?_⟩
  · obtain ⟨tg, htg⟩ := target_of_step_read hin hs
    cases hs.symm.trans (step_read_next hin htg)
    refine ⟨readTarget s tg, rfl, ?_⟩
    have hsecond := step_read_next (s := { s with inbox := .read w addr :: rest, busData := some (readTarget s tg) }) rfl htg
    rw [readTarget_inbox_busData] at hsecond
    exact Host.Outcome.next.inj (ht.symm.trans hsecond)
  · exact ⟨readReg s r, step_read_next hin (accessTarget_register hp ha hr), readReg_holds s r⟩

/-! ### Host accesses to the byte spaces (20_memory.md R61, R63, R68) -/

/-- A host write to slot memory is ignored. -/
theorem hostWrite_slot (s : State) (k i : Nat) (bs : List Byte) : hostWrite s (.slot k) i bs = s := rfl

section buffers
variable (s : State) {sp : Space} (hsp : ∀ k, sp ≠ .slot k) (i : Nat) (bs : List Byte)
include hsp

theorem hasSpace_buffer : hasSpace s sp := by
  cases sp with
  | rx => trivial
  | tx => trivial
  | slot k => exact absurd rfl (hsp k)

theorem hostWrite_buffer : hostWrite s sp i bs = s.writeBytes sp i bs := by
  cases sp with
  | rx => rfl
  | tx => rfl
  | slot k => exact absurd rfl (hsp k)

/-- A host write to a buffer changes no field but the buffer. -/
theorem hostWrite_eq_setMem (rest : List HostOp) :
    hostWrite { s with inbox := rest } sp i bs
      = { s.setMem sp ((hostWrite { s with inbox := rest } sp i bs).memOf sp) with inbox := rest } := by
  cases sp with
  | rx => rfl
  | tx => rfl
  | slot k => exact absurd rfl (hsp k)

/-- A byte of the buffer after a host write to it. -/
theorem readByte_hostWrite_same (rest : List HostOp) (j : Nat) :
    (hostWrite { s with inbox := rest } sp i bs).readByte sp j
      = if hj : i ≤ j ∧ j < i + bs.length then bs[j - i]'(by omega) else s.readByte sp j := by
  rw [hostWrite_buffer _ hsp, readByte_writeBytes_same _ _ _ _ _ (hasSpace_buffer _ hsp), readByte_inbox]

/-- A byte of another space after a host write. -/
theorem readByte_hostWrite_ne (rest : List HostOp) {sp' : Space} (h : sp' ≠ sp) (j : Nat) :
    (hostWrite { s with inbox := rest } sp i bs).readByte sp' j = s.readByte sp' j := by
  rw [hostWrite_buffer _ hsp, readByte_writeBytes_ne _ _ _ _ h, readByte_inbox]

end buffers

/-- Settles O7: the access reaches the byte, and the write is a `hostWrite` of one byte. -/
theorem hostByteAccess : Obligations.HostByteAccess := by
  intro s addr v sp i rest ha hi
  have ht := accessTarget_byteIn ha hi
  have hstore (hin : s.inbox = .write .byte addr v :: rest) :
      step s = .next (hostWrite { s with inbox := rest } sp i [v.extractLsb' 0 8]) := by
    simp only [step_write hin, hostStore, ht]
  refine ⟨fun hin => step_read_next hin ht, fun hin => ⟨?_, fun hsp => ?_⟩⟩
  · rintro ⟨k, rfl⟩
    rw [hstore hin, hostWrite_slot]
  · refine ⟨_, hstore hin, hostWrite_eq_setMem s hsp i _ rest, fun j => ?_,
      fun sp' j h => readByte_hostWrite_ne s hsp i _ rest h j⟩
    rw [readByte_hostWrite_same s hsp]
    by_cases hj : j = i
    · subst hj
      simp
    · rw [dif_neg (by simp only [List.length_singleton]; omega), if_neg hj]

/-- Two 16-bit halves of two bytes each are the four bytes in order. -/
theorem append_pairs (a b c d : Byte) : (a ++ b : Half) ++ (c ++ d : Half) = a ++ b ++ c ++ d :=
  (BitVec.append_assoc (x₁ := a ++ b) (x₂ := c) (x₃ := d)).symm

/-- Four bytes of a space as one big-endian number. -/
theorem rd32_readBytes (s : State) (sp : Space) (i : Nat) :
    rd32 (s.readBytes sp i 4) 0
      = s.readByte sp i ++ s.readByte sp (i + 1) ++ s.readByte sp (i + 2) ++ s.readByte sp (i + 3) := by
  simp only [rd32, rd16, byteAt_readBytes s sp i 4 _ (show 0 < 4 by decide),
    byteAt_readBytes s sp i 4 _ (show 0 + 1 < 4 by decide), byteAt_readBytes s sp i 4 _ (show 0 + 2 < 4 by decide),
    byteAt_readBytes s sp i 4 _ (show 0 + 2 + 1 < 4 by decide)]
  exact append_pairs _ _ _ _

/-- Settles O8: the access reaches the four bytes, and the write is a `hostWrite` of the word's big-endian bytes. -/
theorem hostWordAccessIsBigEndian : Obligations.HostWordAccessIsBigEndian := by
  intro s addr v sp i rest ha h4 hi
  have ht := accessTarget_wordIn ha h4 hi
  have hstore (hin : s.inbox = .write .word addr v :: rest) :
      step s = .next (hostWrite { s with inbox := rest } sp i (wr32 v)) := by
    simp only [step_write hin, hostStore, ht]
  refine ⟨fun hin => ?_, ?_, fun hin hsp => ?_⟩
  · rw [step_read_next hin ht, readTarget, rd32_readBytes]
  · rintro hin ⟨k, rfl⟩
    rw [hstore hin, hostWrite_slot]
  · have hbyte (n : Nat) (hn : n < (wr32 v).length) :
        (hostWrite { s with inbox := rest } sp i (wr32 v)).readByte sp (i + n) = (wr32 v)[n] := by
      rw [readByte_hostWrite_same s hsp, dif_pos (by omega)]
      simp only [Nat.add_sub_cancel_left]
    refine ⟨_, hstore hin, hostWrite_eq_setMem s hsp i _ rest, hbyte 0 (by simp), hbyte 1 (by simp), hbyte 2 (by simp),
      hbyte 3 (by simp), fun j hj => ?_, fun sp' j h => readByte_hostWrite_ne s hsp i _ rest h j⟩
    rw [readByte_hostWrite_same s hsp, dif_neg (by rw [wr32_length]; omega)]

/-! ### The bytes a command writes (20_memory.md R62, 10_state.md R45) -/

/-- The commands that write into their window (41_ethernet.md R154 to R156, 43_arp.md R185 to R187). -/
def setCommands (b : Buf) : List Instr :=
  [.ethSetDst b, .ethSetSrc b, .ethSetProto b, .arpSetSrcMap b, .arpSetTgtMap b, .arpSetOper b]

theorem buf?_of_mem_setCommands {i : Instr} {b : Buf} (h : i ∈ setCommands b) : i.buf? = some b := by
  simp only [setCommands, List.mem_cons, List.not_mem_nil, or_false] at h
  rcases h with rfl | rfl | rfl | rfl | rfl | rfl <;> rfl

/-- What a command does to RX_BUF and TX_BUF: a set command stores in its window, RX_POLL can write TX_BUF, and no other
command writes either. -/
inductive BufferEffect (i : Instr) (s t : State) : Prop where
  | keep (hrx : t.rxBuf = s.rxBuf) (htx : i ≠ .rxPoll → t.txBuf = s.txBuf)
  | store (b : Buf) (hi : i ∈ setCommands b) (u : State) (h : WindowStore b s u) (hrx : t.rxBuf = u.rxBuf)
      (htx : t.txBuf = u.txBuf)

theorem exec_bufferEffect {i : Instr} {s t : State} (h : exec i s = .next t) : BufferEffect i s t := by
  by_cases hi : i = .rxPoll
  · subst hi
    exact .keep (by rw [poll_frame h]) fun hn => absurd rfl hn
  · rcases exec_cases hi h with ⟨e, rfl⟩ | ⟨u, hu, rfl⟩
    · exact .keep rfl fun _ => rfl
    · cases i with
      | ethSetDst b | ethSetSrc b | ethSetProto b | arpSetSrcMap b | arpSetTgtMap b | arpSetOper b =>
        exact .store b (by simp [setCommands]) u hu rfl rfl
      | ipv4Input b =>
        obtain ⟨f, -, rfl⟩ := hu
        obtain ⟨slots, hist, hr, -⟩ := ipv4Receive_effect f (winBytes b s) s
        rw [hr]
        exact .keep rfl fun _ => rfl
      | addrAdd =>
        obtain ⟨a, rfl, -⟩ := hu
        exact .keep rfl fun _ => rfl
      | addrDel =>
        cases hu
        exact .keep rfl fun _ => rfl
      | rxPoll => exact hu.elim
      | _ =>
        obtain ⟨x, rfl⟩ := hu
        exact .keep rfl fun _ => rfl

theorem exec_epoch {i : Instr} {s t : State} (h : exec i s = .next t) : t.epoch = s.epoch := by
  rw [exec_frame h]

/-- A byte reads alike in two states of one reset when the lists of written bytes agree on it. -/
theorem readByte_congr {s t : State} (he : t.epoch = s.epoch) {sp : Space} {j : Nat}
    (hm : (t.memOf sp).lookup j = (s.memOf sp).lookup j) : t.readByte sp j = s.readByte sp j := by
  rw [State.readByte, State.readByte, hm, he]

/-- A store inside the window of one buffer leaves every byte outside that window, in every space. -/
theorem WindowStore.lookup_outside {b : Buf} {s u : State} (h : WindowStore b s u) {sp : Space}
    {j : Nat} (hj : ¬ (sp = spaceOf b ∧ winBase s ≤ j ∧ j < winBase s + winLen s)) :
    (u.memOf sp).lookup j = (s.memOf sp).lookup j := by
  obtain ⟨m, rfl, hm, -⟩ := h
  by_cases hb : sp = spaceOf b
  · subst hb
    rw [memOf_setMem_window, hm j fun hin => hj ⟨rfl, hin⟩]
  · rw [memOf_setMem_ne s m hb]

/-- The contents of the two buffers are the two lists. -/
theorem memOf_congr {s t : State} (hrx : t.rxBuf = s.rxBuf) (htx : t.txBuf = s.txBuf) {sp : Space}
    (hsp : ∀ k, sp ≠ .slot k) : t.memOf sp = s.memOf sp := by
  cases sp with
  | rx => exact hrx
  | tx => exact htx
  | slot k => exact absurd rfl (hsp k)

/-- A command but RX_POLL changes no byte of the two buffers outside its window. -/
theorem exec_readByte_buffer {i : Instr} {s t : State} (h : exec i s = .next t) (hi : i ≠ .rxPoll) {sp : Space}
    (hsp : ∀ k, sp ≠ .slot k) {j : Nat}
    (hj : ∀ b, i.buf? = some b → ¬ (sp = spaceOf b ∧ winBase s ≤ j ∧ j < winBase s + winLen s)) :
    t.readByte sp j = s.readByte sp j := by
  refine readByte_congr (exec_epoch h) ?_
  cases exec_bufferEffect h with
  | keep hrx htx => rw [memOf_congr hrx (htx hi) hsp]
  | store b hb u hu hrx htx =>
    rw [memOf_congr hrx htx hsp]
    exact hu.lookup_outside (hj b (buf?_of_mem_setCommands hb))

theorem memOf_slot (s : State) (k : Nat) : s.memOf (.slot k) = (s.slots[k]?.map Slot.data).getD [] := by
  simp only [State.memOf]
  cases s.slots[k]? <;> rfl

/-- A flush keeps the bytes of every slot (44_ipv4.md R213). -/
theorem flushSlots_data (t : Byte) (n : Nat) (slots : List Slot) (k : Nat) :
    (flushSlots t n slots)[k]?.map Slot.data = slots[k]?.map Slot.data := by
  by_cases hk : k < slots.length
  · rw [List.getElem?_eq_getElem hk, List.getElem?_eq_getElem (by simpa using hk), flushSlots_getElem t n slots k hk]
    rfl
  · have hle : slots.length ≤ k := Nat.le_of_not_lt hk
    rw [List.getElem?_eq_none hle, List.getElem?_eq_none (by simpa using hle)]

/-- Only IPV4_INPUT and RX_POLL write slot memory; FRAG_FLUSH changes slots and keeps their bytes. -/
theorem exec_readByte_slot {i : Instr} {s t : State} (h : exec i s = .next t) (hinput : ∀ b, i ≠ .ipv4Input b)
    (hpoll : i ≠ .rxPoll) (k j : Nat) : t.readByte (.slot k) j = s.readByte (.slot k) j := by
  have hdata : t.slots[k]?.map Slot.data = s.slots[k]?.map Slot.data := by
    by_cases hflush : i = .fragFlush
    · subst hflush
      rcases exec_cases hpoll h with ⟨e, rfl⟩ | ⟨u, ⟨n, rfl⟩, rfl⟩
      · rfl
      · exact flushSlots_data (argSlot s) 0 s.slots k
    · obtain ⟨-, hslots, -⟩ := whoWritesWhat i s t h
      rw [hslots hinput hflush hpoll]
  exact readByte_congr (exec_epoch h) (by rw [memOf_slot, memOf_slot, hdata])

/-- No command but the set commands on RX_BUF changes RX_BUF (log 15). -/
theorem exec_rxBuf {i : Instr} {s t : State} (h : exec i s = .next t) (hi : i ∉ setCommands .rx) :
    t.rxBuf = s.rxBuf := by
  cases exec_bufferEffect h with
  | keep hrx => exact hrx
  | store b hb u hu hrx =>
    cases b with
    | rx => exact absurd hb hi
    | tx =>
      obtain ⟨m, rfl, -⟩ := hu
      exact hrx

/-- Settles O21: the buffers by what a command does to them, slot memory by the commands that write it. -/
theorem commandsStayInsideTheirWindow : Obligations.CommandsStayInsideTheirWindow := by
  intro i s t h
  refine ⟨fun b hb => ?_, fun hnone => ?_, exec_rxBuf h⟩
  · have hpoll : i ≠ .rxPoll := by
      rintro rfl
      cases hb
    refine ⟨fun sp j hsp hj => exec_readByte_buffer h hpoll hsp fun b' hb' => ?_,
      fun hinput k j => exec_readByte_slot h hinput hpoll k j⟩
    cases hb.symm.trans hb'
    exact hj
  · have hinput : ∀ b, i ≠ .ipv4Input b := by
      rintro b rfl
      cases hnone
    have hplain (b : Buf) : i.buf? ≠ some b := by
      rw [hnone]
      nofun
    refine ⟨fun j => ?_, fun hpoll sp j => ?_⟩
    · have hrx := exec_rxBuf h fun hm => hplain .rx (buf?_of_mem_setCommands hm)
      exact readByte_congr (exec_epoch h) (congrArg (Memory.lookup · j) hrx)
    · cases sp with
      | slot k => exact exec_readByte_slot h hinput hpoll k j
      | rx | tx => exact exec_readByte_buffer h hpoll (by simp) fun b hb => absurd hb (hplain b)

end Sys2Proof.Machine
end

section
/-!
PROOFS. The encoding statements (30_encoding.md). First the facts they share: the fields of a word, the rows of the
opcode table, which words decode, and how every window command begins.
-/

namespace Sys2Proof.Machine

open Sys2Proof

/-! ### The fields of a command word (30_encoding.md R80) -/

theorem plainWord_eq_windowWord (opc : Byte) : plainWord opc = windowWord .rx opc := by
  have hopc : (0#1 ++ opc).toNat = opc.toNat := by rw [BitVec.toNat_append]; simp
  apply BitVec.eq_of_toNat_eq
  rw [plainWord, windowWord, bitOfBuf, BitVec.toNat_setWidth, BitVec.toNat_setWidth, hopc]

theorem bitOfBuf_bufOfBit_getElem (b : Bool) : (bitOfBuf (bufOfBit b))[0] = b := by
  cases b <;> rfl

/-- A word whose reserved bits are 0 is the word of its own B and OPC. -/
theorem eq_windowWord_of_reservedField {c : Word} (h : reservedField c = 0#23) :
    c = windowWord (bufOfBit (bField c)) (opcField c) := by
  apply BitVec.eq_of_getLsbD_eq
  intro k hk
  simp only [windowWord, BitVec.getLsbD_setWidth, hk, decide_true, Bool.true_and, BitVec.getLsbD_append]
  rcases Nat.lt_trichotomy k 8 with hlt | rfl | hgt
  · simp [opcField, hlt]
  · simp [bitOfBuf_bufOfBit_getElem, bField]
  · have hbit := congrArg (·.getLsbD (k - 9)) h
    have hk9 : k - 9 < 23 := by omega
    simp only [reservedField, BitVec.getLsbD_extractLsb', hk9, decide_true, Bool.true_and,
      show 9 + (k - 9) = k by omega, BitVec.getLsbD_zero] at hbit
    rw [hbit, if_neg (by omega), BitVec.getLsbD_of_ge _ _ (by omega)]

/-! ### The opcode table (30_encoding.md R83) -/

theorem windowCmd_ok_iff {mk : Buf → Instr} {b : Bool} {i : Instr} : windowCmd mk b = .ok i ↔ i = mk (bufOfBit b) := by
  simp [windowCmd, eq_comm]

theorem plainCmd_ok_iff {i j : Instr} {b : Bool} : plainCmd i b = .ok j ↔ b = false ∧ j = i := by
  cases b <;> simp [plainCmd, eq_comm]

/-- Every opcode is that of a window command, that of a command without one, or reserved, and in the first two cases
the decoder and the encoder read the same row of the table. -/
theorem decodeOpc_cases (opc : Byte) (b : Bool) :
    (∃ mk, opcodeWindow opc = some true ∧ decodeOpc opc b = windowCmd mk b ∧ ∀ w, encode (mk w) = windowWord w opc)
    ∨ (∃ i, opcodeWindow opc = some false ∧ decodeOpc opc b = plainCmd i b ∧ encode i = plainWord opc)
    ∨ (opcodeWindow opc = none ∧ decodeOpc opc b = .error .reservedOpcode) := by
  unfold opcodeWindow
  split
  · rename_i hw
    simp only [List.mem_cons, List.not_mem_nil, or_false] at hw
    rcases hw with rfl | rfl | rfl | rfl | rfl | rfl | rfl | rfl | rfl | rfl | rfl | rfl
    all_goals exact .inl ⟨_, rfl, rfl, fun _ => rfl⟩
  · split
    · rename_i _ hp
      simp only [List.mem_cons, List.not_mem_nil, or_false] at hp
      rcases hp with rfl | rfl | rfl | rfl | rfl | rfl | rfl | rfl
      all_goals exact .inr (.inl ⟨_, rfl, rfl, rfl⟩)
    · rename_i hw hp
      simp only [List.mem_cons, List.not_mem_nil, or_false, not_or] at hw hp
      exact .inr (.inr ⟨rfl, by simp only [decodeOpc, hw, hp, if_false]⟩)

/-! ### Which words decode (30_encoding.md R81) -/

theorem decode_ok_iff (c : Word) (i : Instr) :
    decode c = .ok i ↔ reservedField c = 0#23 ∧ decodeOpc (opcField c) (bField c) = .ok i := by
  unfold decode
  cases decodeOpc (opcField c) (bField c) with
  | error e => simp
  | ok j =>
    by_cases h : reservedField c = 0#23 <;> simp [h]

theorem decode_encode (i : Instr) : decode (encode i) = .ok i := by
  cases i with
  | csumClear | csumWord | csumPseudo | csumVerify | fragFlush | addrAdd | addrDel | rxPoll => rfl
  | csumBytes b | ethParse b | ethSetDst b | ethSetSrc b | ethSetProto b | vlanStrip b | arpParse b
  | arpSetSrcMap b | arpSetTgtMap b | arpSetOper b | ipv4Parse b | ipv4Input b => cases b <;> rfl

/-- No bit of a word that decodes is dropped. -/
theorem eq_encode_of_decode {c : Word} {i : Instr} (h : decode c = .ok i) : c = encode i := by
  obtain ⟨hres, hopc⟩ := (decode_ok_iff c i).1 h
  have hword := eq_windowWord_of_reservedField hres
  rcases decodeOpc_cases (opcField c) (bField c) with ⟨mk, -, hrow, henc⟩ | ⟨j, -, hrow, henc⟩ | ⟨-, hrow⟩
  · rw [hrow, windowCmd_ok_iff] at hopc
    rw [hopc, henc]
    exact hword
  · rw [hrow, plainCmd_ok_iff] at hopc
    obtain ⟨hb, rfl⟩ := hopc
    rw [henc, plainWord_eq_windowWord]
    rwa [hb] at hword
  · rw [hrow] at hopc
    cases hopc

/-- Settles O1: the encoder's words decode, and a word that decodes is rebuilt from its fields. -/
theorem decodeInvertsEncode : Obligations.DecodeInvertsEncode := by
  refine fun c i => ⟨eq_encode_of_decode, ?_⟩
  rintro rfl
  exact decode_encode i

/-- The opcode and B decode when the opcode is in the table and B is 0 or the command has a window. -/
theorem exists_decodeOpc_ok_iff (opc : Byte) (b : Bool) :
    (∃ i, decodeOpc opc b = .ok i)
      ↔ opcodeWindow opc = some true ∨ (opcodeWindow opc = some false ∧ b = false) := by
  rcases decodeOpc_cases opc b with ⟨mk, hw, hrow, -⟩ | ⟨j, hw, hrow, -⟩ | ⟨hw, hrow⟩
  · simp [hw, hrow, windowCmd_ok_iff]
  · simp [hw, hrow, plainCmd_ok_iff]
  · simp [hw, hrow]

/-- The words that decode to no command are those that break one of the three conditions. -/
theorem decode_ne_ok_iff (c : Word) :
    (∀ i, decode c ≠ .ok i) ↔
      (opcodeWindow (opcField c) = none ∨ reservedField c ≠ 0#23
        ∨ (bField c = true ∧ opcodeWindow (opcField c) = some false)) := by
  have hlegal : (∃ i, decode c = .ok i) ↔ reservedField c = 0#23 ∧
      (opcodeWindow (opcField c) = some true ∨ (opcodeWindow (opcField c) = some false ∧ bField c = false)) := by
    simp only [decode_ok_iff, exists_and_left, exists_decodeOpc_ok_iff]
  rw [← not_exists, hlegal]
  rcases opcodeWindow (opcField c) with _ | _ | _ <;> simp [imp_iff_not_or]

/-- The host's write of a word to CMD performs that word. -/
theorem step_cmdWrite {s : State} {c : Word} {rest : List HostOp} (hin : s.inbox = cmdWrite s.params c :: rest) :
    step s = runCommandWord c { s with inbox := rest } := by
  rw [step_write hin, hostStore, accessTarget_cmd]

theorem runCommandWord_illegal {c : Word} (h : ∀ i, decode c ≠ .ok i) (s : State) :
    runCommandWord c s = .next (raiseErr { code := .illegal, info := c } s) := by
  unfold runCommandWord
  cases hd : decode c with
  | ok i => exact absurd hd (h i)
  | error e => rfl

/-- Settles O2: the three conditions are those of the table's rows, and an illegal word at CMD only raises ILLEGAL. -/
theorem illegalWordsEndWithIllegal : Obligations.IllegalWordsEndWithIllegal := by
  refine fun c s rest hin => ⟨decode_ne_ok_iff c, fun hc => ?_⟩
  rw [step_cmdWrite hin, runCommandWord_illegal hc]
  rfl

/-- Settles O3: seven words are the encoder's; 0x24 is no opcode of the table, and RX_POLL has no window. -/
theorem sampleWordsDecode : Obligations.SampleWordsDecode :=
  ⟨decode_encode .csumClear, decode_encode (.csumBytes .tx), decode_encode (.ethParse .tx), decode_encode (.vlanStrip .rx),
    decode_encode (.arpParse .rx), decode_encode (.ipv4Input .tx), decode_encode .rxPoll, by decide, by decide⟩

/-! ### The window check (30_encoding.md R82) -/

/-- A window command is the window check of its buffer and then a body of its own. -/
theorem exec_window {i : Instr} {b : Buf} (hb : i.buf? = some b) (s : State) :
    ∃ k, exec i s = .next (withWindow b s k) := by
  cases i with
  | csumClear | csumWord | csumPseudo | csumVerify | fragFlush | addrAdd | addrDel | rxPoll => cases hb
  | csumBytes | ethParse | ethSetDst | ethSetSrc | ethSetProto | vlanStrip | arpParse
  | arpSetSrcMap | arpSetTgtMap | arpSetOper | ipv4Parse | ipv4Input =>
    cases hb
    exact ⟨_, rfl⟩

/-- The end of the window is reported without wrapping around. -/
theorem winError_info_toNat (s : State) : (winError s).info.toNat = min (winBase s + winLen s) 0xFFFFFFFF :=
  Nat.mod_eq_of_lt (by omega)

/-- Settles O24: the check comes before the command's own body, so no body has run when it fails. -/
theorem windowOutsideSpaceIsBounds : Obligations.WindowOutsideSpaceIsBounds := by
  intro i b s hb hout
  obtain ⟨k, hexec⟩ := exec_window hb s
  rw [← spaceSize_eq_spaceBytes] at hout
  refine ⟨(winError s).info, ?_, winError_info_toNat s⟩
  rw [hexec, withWindow_outside hout]
  rfl

end Sys2Proof.Machine
end

section
/-!
PROOFS. The checksum statements (40_checksum.md). First the facts they share: the algebra of the end-around-carry fold,
the sum of a byte string cut into pieces, and the encoding and the window check of a command.
-/

namespace Sys2Proof.Machine

open Sys2Proof

/-! ### The fold and ones'-complement addition (40_checksum.md R130) -/

theorem fold_toNat_mod (n : Nat) : (fold n).toNat % 0xFFFF = n % 0xFFFF := by
  rw [fold_toNat]
  split <;> omega

theorem fold_toNat_eq_zero_iff (n : Nat) : (fold n).toNat = 0 ↔ n = 0 := by
  rw [fold_toNat]
  split <;> omega

/-- All that the fold keeps of a number: whether it is 0, and its residue modulo 0xFFFF. -/
theorem fold_congr {m n : Nat} (hzero : m = 0 ↔ n = 0) (hmod : m % 0xFFFF = n % 0xFFFF) : fold m = fold n := by
  apply BitVec.eq_of_toNat_eq
  rw [fold_toNat, fold_toNat]
  split <;> split <;> omega

/-- A 16-bit number is its own fold. -/
@[simp] theorem fold_toNat_eq_self (a : Half) : fold a.toNat = a := by
  have ha := a.isLt
  apply BitVec.eq_of_toNat_eq
  rw [fold_toNat]
  split <;> omega

/-- Folding first and adding with end-around carry, or adding first and folding once: the laws of `ocadd` and the
composition of checksums all follow from this. -/
theorem fold_add (m n : Nat) : fold (m + n) = ocadd (fold m) (fold n) := by
  have hm := fold_toNat_eq_zero_iff m
  have hn := fold_toNat_eq_zero_iff n
  apply fold_congr
  · omega
  · rw [Nat.add_mod, ← fold_toNat_mod m, ← fold_toNat_mod n, ← Nat.add_mod]

theorem ocadd_eq_zero_iff (a b : Half) : ocadd a b = 0#16 ↔ a = 0#16 ∧ b = 0#16 := by
  simp only [← BitVec.toNat_inj, BitVec.toNat_ofNat, Nat.zero_mod]
  rw [ocadd, fold_toNat_eq_zero_iff, Nat.add_eq_zero_iff]

theorem ocadd_comm (a b : Half) : ocadd a b = ocadd b a := by
  rw [ocadd, ocadd, Nat.add_comm]

theorem ocadd_assoc (a b c : Half) : ocadd (ocadd a b) c = ocadd a (ocadd b c) :=
  calc ocadd (ocadd a b) c
    _ = ocadd (fold (a.toNat + b.toNat)) (fold c.toNat) := by rw [fold_toNat_eq_self]; rfl
    _ = fold (a.toNat + (b.toNat + c.toNat)) := by rw [← fold_add, Nat.add_assoc]
    _ = ocadd a (ocadd b c) := by rw [fold_add, fold_toNat_eq_self]; rfl

@[simp] theorem zero_ocadd (a : Half) : ocadd 0#16 a = a := by
  simp [ocadd]

@[simp] theorem ocadd_zero (a : Half) : ocadd a 0#16 = a := by
  rw [ocadd_comm, zero_ocadd]

theorem allOnes_ocadd {a : Half} (h : a ≠ 0#16) : ocadd 0xFFFF#16 a = a := by
  have ha := a.isLt
  have hpos : a.toNat ≠ 0 := fun h0 => h (BitVec.eq_of_toNat_eq h0)
  apply BitVec.eq_of_toNat_eq
  rw [ocadd_toNat, BitVec.toNat_ofNat]
  split <;> omega

/-- A number and its complement sum to 0xFFFF without a carry. -/
theorem ocadd_not (a : Half) : ocadd a (~~~a) = 0xFFFF#16 := by
  have ha := a.isLt
  have hsum : a.toNat + (~~~a).toNat = (0xFFFF#16 : Half).toNat := by
    rw [BitVec.toNat_not, BitVec.toNat_ofNat]
    omega
  rw [ocadd, hsum, fold_toNat_eq_self]

/-- Settles O25: each law is one of `fold_add`'s consequences or read off the fold as a number. -/
theorem onesComplementAddition : Obligations.OnesComplementAddition :=
  ⟨ocadd_eq_zero_iff, fun a b => fold_toNat_mod (a.toNat + b.toNat), ocadd_comm, ocadd_assoc, zero_ocadd,
    fun _ => allOnes_ocadd, ocadd_zero _⟩

/-! ### The sum of a byte string (40_checksum.md R131, R132) -/

/-- A 16-bit word as its two bytes, the high one first. -/
theorem toNat_append_byte (a b : Byte) : (a ++ b).toNat = a.toNat * 0x100 + b.toNat := by
  rw [BitVec.toNat_append, ← Nat.shiftLeft_add_eq_or_of_lt b.isLt, Nat.shiftLeft_eq]

theorem csumTotal_cons_cons (a b : Byte) (t : List Byte) :
    csumTotal (a :: b :: t) = (a ++ b).toNat + csumTotal t := by
  rw [csumTotal, toNat_append_byte]

/-- Up to an even offset the words of a string are those of its front. -/
theorem csumTotal_append (x y : List Byte) (h : x.length % 2 = 0) : csumTotal (x ++ y) = csumTotal x + csumTotal y := by
  induction x using csumTotal.induct with
  | case1 => simp [csumTotal]
  | case2 a => simp at h
  | case3 a b t ih =>
    have ht : t.length % 2 = 0 := by
      simp only [List.length_cons] at h
      omega
    rw [List.cons_append, List.cons_append, csumTotal_cons_cons, csumTotal_cons_cons, ih ht, Nat.add_assoc]

theorem csum_singleton (a : Byte) : csum [a] = a ++ 0x00#8 := by
  have htotal : csumTotal [a] = (a ++ 0x00#8).toNat := by simp [csumTotal, toNat_append_byte]
  rw [csum, htotal, fold_toNat_eq_self]

theorem csum_cons_cons (a b : Byte) (t : List Byte) : csum (a :: b :: t) = ocadd (a ++ b) (csum t) := by
  rw [csum, csumTotal_cons_cons, fold_add, fold_toNat_eq_self, csum]

theorem csum_append (x y : List Byte) (h : x.length % 2 = 0) : csum (x ++ y) = ocadd (csum x) (csum y) := by
  rw [csum, csumTotal_append x y h, fold_add, csum, csum]

/-- The byte 0x00 before the byte 0x01: whole, they are the word 0x0001; apart, the second is padded to 0x0100. -/
theorem csum_append_ne_of_odd : csum ([0x00#8] ++ [0x01#8]) ≠ ocadd (csum [0x00#8]) (csum [0x01#8]) := by
  have hwhole : csum ([0x00#8] ++ [0x01#8]) = 0x0001#16 := (csum_cons_cons 0x00#8 0x01#8 []).trans (ocadd_zero _)
  have hparts : ocadd (csum [0x00#8]) (csum [0x01#8]) = 0x0100#16 := by
    rw [csum_singleton, csum_singleton]
    exact zero_ocadd _
  rw [hwhole, hparts]
  decide

/-- Settles O26: the words of a string add one by one, and an odd piece in front shifts the words after it. -/
theorem checksumComposes : Obligations.ChecksumComposes :=
  ⟨rfl, csum_singleton, csum_cons_cons, csum_append, [0x00#8], [0x01#8], rfl, csum_append_ne_of_odd⟩

/-! ### Sums of big-endian fields (40_checksum.md R137, R139) -/

/-- Two bytes of a number that lie side by side are one of its 16-bit fields. -/
theorem extract_byte_append {n : Nat} (v : BitVec n) (k : Nat) :
    v.extractLsb' (k + 8) 8 ++ v.extractLsb' k 8 = v.extractLsb' k 16 :=
  BitVec.extractLsb'_append_extractLsb'_eq_extractLsb' rfl

theorem csumTotal_wr16_append (v : Half) (t : List Byte) : csumTotal (wr16 v ++ t) = v.toNat + csumTotal t := by
  have hv : v.extractLsb' 8 8 ++ v.extractLsb' 0 8 = v := (extract_byte_append v 0).trans BitVec.extractLsb'_eq_self
  rw [wr16, List.cons_append, List.cons_append, List.nil_append, csumTotal_cons_cons, hv]

theorem csumTotal_wr32_append (v : Word) (t : List Byte) :
    csumTotal (wr32 v ++ t) = (v.extractLsb' 16 16).toNat + ((v.extractLsb' 0 16).toNat + csumTotal t) := by
  rw [← extract_byte_append v 16, ← extract_byte_append v 0, ← csumTotal_cons_cons, ← csumTotal_cons_cons]
  rfl

/-- A 16-bit field at an even offset adds its value to the sum of the bytes around it. -/
theorem csumTotal_field (x y : List Byte) (v : Half) (h : x.length % 2 = 0) :
    csumTotal (x ++ wr16 v ++ y) = csumTotal x + csumTotal y + v.toNat := by
  rw [List.append_assoc, csumTotal_append x _ h, csumTotal_wr16_append]
  omega

/-- Settles O27: writing the complement `c` of the sum `S` into the zero field makes the sum `ocadd S c`. -/
theorem filledHeaderVerifies : Obligations.FilledHeaderVerifies := by
  intro x y h
  have hzero : csum (x ++ [0x00#8, 0x00#8] ++ y) = fold (csumTotal x + csumTotal y) :=
    congrArg fold (csumTotal_field x y 0#16 h)
  rw [hzero, csum, csumTotal_field x y _ h, fold_add, fold_toNat_eq_self, ocadd_not]

/-- Settles O28: the twelve bytes are six 16-bit words, the fifth of them the protocol number after a zero byte. -/
theorem pseudoHeaderSum : Obligations.PseudoHeaderSum := by
  refine fun src dst nh len => ⟨rfl, ?_⟩
  have hproto : csumTotal ([0x00#8, nh] ++ wr16 len) = nh.toNat + len.toNat := by
    rw [List.cons_append, List.cons_append, List.nil_append, csumTotal_cons_cons, toNat_append_byte,
      ← List.append_nil (wr16 len), csumTotal_wr16_append]
    simp [csumTotal]
  rw [pseudo4, csum, List.append_assoc, List.append_assoc, csumTotal_wr32_append, csumTotal_wr32_append, hproto]
  simp only [Nat.add_assoc]

/-! ### The words of a command, and its window check (30_encoding.md R82, R83) -/

theorem plainEncoding_encode (i : Instr) : PlainEncoding i (encode i) := fun c => decodeInvertsEncode c i

theorem windowEncoding_encode (mk : Buf → Instr) : WindowEncoding mk (encode (mk .rx)) (encode (mk .tx)) :=
  fun c => ⟨decodeInvertsEncode c (mk .rx), decodeInvertsEncode c (mk .tx)⟩

theorem boundsChecked_of_buf {mk : Buf → Instr} (hbuf : ∀ b, (mk b).buf? = some b) : BoundsChecked mk := by
  intro b s hout
  obtain ⟨k, hexec⟩ := exec_window (hbuf b) s
  rw [WindowFits, ← spaceSize_eq_spaceBytes, Nat.not_le] at hout
  rw [EndsWith, hexec, withWindow_outside hout]
  rfl

/-! ### The checksum commands (40_checksum.md R133 to R138) -/

/-- Settles O29: the word is the encoder's, and the body is the whole next state. -/
theorem csumClearClears : Obligations.CsumClearClears :=
  ⟨plainEncoding_encode .csumClear, fun _ => rfl⟩

/-- CSUM_BYTES on a window that fits (R134). -/
theorem exec_csumBytes_inside {b : Buf} {s : State} (h : WindowFits b s) :
    exec (.csumBytes b) s = .next (succeeded { s with csumAcc := ocadd s.csumAcc (csum (winBytes b s)) }) := by
  rw [WindowFits, ← spaceSize_eq_spaceBytes] at h
  exact congrArg _ (withWindow_inside h)

/-- Settles O30: the two windows of the statement are the two outcomes of the window check. -/
theorem csumBytesAddsWindow : Obligations.CsumBytesAddsWindow :=
  ⟨windowEncoding_encode .csumBytes, boundsChecked_of_buf fun _ => rfl, fun _ _ => exec_csumBytes_inside⟩

/-- Settles O31: the high half of ARG2 is no part of the operand field. -/
theorem csumWordAddsOperand : Obligations.CsumWordAddsOperand :=
  ⟨plainEncoding_encode .csumWord, fun _ => rfl⟩

theorem csumPseudoBody_ipv4 {s : State} (h : argFamilies s = 0#2) :
    csumPseudoBody s
      = .ok { s with csumAcc := ocadd s.csumAcc (pseudo4 s.args.a2 s.args.a3 (argNextHeader s) (argPseudoLen s)) } := by
  rw [csumPseudoBody, if_neg (not_not_intro h)]

theorem csumPseudoBody_ipv6 {s : State} (h : argFamilies s ≠ 0#2) :
    csumPseudoBody s = .error { code := .addrFamilyMismatch, info := (argFamilies s).setWidth 32 } := by
  rw [csumPseudoBody, if_pos h]

/-- Settles O32: the two outcomes are the two cases of the family bits. -/
theorem csumPseudoAddsPseudoHeader : Obligations.CsumPseudoAddsPseudoHeader := by
  refine ⟨plainEncoding_encode .csumPseudo, fun s => ⟨fun h => ?_, fun h => ?_⟩⟩
  · exact congrArg (fun r => Host.Outcome.next (finish s r)) (csumPseudoBody_ipv4 h)
  · exact congrArg (fun r => Host.Outcome.next (finish s r)) (csumPseudoBody_ipv6 h)

/-- The word that RES0 takes from the VERIFY flag (R138). -/
theorem verifyFlag_word (acc : Half) :
    (bit (verifyFlag acc)).setWidth 32 = if acc = 0xFFFF#16 then 1#32 else 0#32 := by
  by_cases h : acc = 0xFFFF#16
  · subst h
    rfl
  · have hflag : verifyFlag acc = false := by simp [verifyFlag, h]
    rw [hflag, if_neg h]
    rfl

/-- Settles O33: the outcome is a function of ACC alone, so CTRL.CSUM_BYPASS takes no part. -/
theorem csumVerifyTestsAllOnes : Obligations.CsumVerifyTestsAllOnes := by
  refine ⟨plainEncoding_encode .csumVerify, fun s => ?_⟩
  rw [← verifyFlag_word]
  rfl

end Sys2Proof.Machine
end

section
/-!
PROOFS. The Ethernet statements (41_ethernet.md). First the facts they share: what a window command does on a window that
fits, the classification of a header, what a set command stores, and the fields of a window after a store.
-/

namespace Sys2Proof.Machine

open Sys2Proof

/-! ### A command on a window that fits (20_memory.md R66) -/

section inside
variable {i : Instr} {b : Buf} {s : State} {k : List Byte → Except Err State} (hexec : exec i s = .next (withWindow b s k))
  (hin : WindowFits b s)
include hexec hin

/-- On a window that fits, a window command is its own body. -/
theorem exec_inside : exec i s = .next (finish s (k (winBytes b s))) := by
  rw [WindowFits, ← spaceSize_eq_spaceBytes] at hin
  rw [hexec, withWindow_inside hin]

theorem exec_inside_ok {t : State} (hk : k (winBytes b s) = .ok t) : exec i s = .next (complete t) := by
  rw [exec_inside hexec hin, hk, finish_ok]

theorem endsWith_inside {e : Err} (hk : k (winBytes b s) = .error e) : EndsWith i s e.code.toByte e.info := by
  rw [EndsWith, exec_inside hexec hin, hk, finish_error, raiseErr_eq_errored]

end inside

/-! ### The classification of a header (41_ethernet.md R151) -/

theorem l3class_toBits (e : Half) : (l3class e).toBits = l3Code e := by
  unfold l3class l3Code
  split_ifs <;> rfl

theorem l3class_eq_other_iff (e : Half) : l3class e = .other ↔ l3Code e = 3#2 := by
  rw [← l3class_toBits]
  cases l3class e <;> decide

theorem ethClassify_tooShort {w : List Byte} {need : Nat} (h : EthTooShort w need) :
    ethClassify w = .error (wrongLength need) := by
  rcases h with ⟨hlen, rfl⟩ | ⟨h14, hlen, h12, rfl⟩ | ⟨h18, hlen, h12, h16, rfl⟩
  · rw [ethClassify, if_pos hlen]
  · rw [ethClassify, tpid, if_neg (by omega), if_pos h12, if_pos hlen]
  · rw [ethClassify, tpid, if_neg (by omega), if_pos h12, if_neg (by omega), if_pos h16, if_pos hlen]

/-- A window that is long enough for its header is classified as the shape of the statements says. -/
theorem ethClassify_shape {w : List Byte} {k : BitVec 3} {l3 : BitVec 2} {hdr : Nat} {e : Half} {v0 v1 : Vid}
    (h : EthShape w k l3 hdr e v0 v1) :
    ∃ f, ethClassify w = .ok f ∧ hdr < 256 ∧ f.pkind.toBits = k ∧ f.l3.toBits = l3 ∧ f.hdr = hdr ∧ f.etype = e
      ∧ f.vid0 = v0 ∧ f.vid1 = v1 := by
  unfold EthShape at h
  split at h
  next h12 =>
    obtain ⟨rfl, h⟩ := h
    split at h
    next h16 =>
      obtain ⟨hlen, rfl, rfl, rfl, rfl, rfl⟩ := h
      rw [ethClassify, tpid, if_neg (by omega), if_pos h12, if_neg (by omega), if_pos h16, if_neg (by omega)]
      exact ⟨_, rfl, by decide, rfl, l3class_toBits _, rfl, rfl, rfl, rfl⟩
    next h16 =>
      obtain ⟨hlen, rfl, rfl, rfl, rfl, rfl⟩ := h
      rw [ethClassify, tpid, if_neg (by omega), if_pos h12, if_neg (by omega), if_neg h16]
      exact ⟨_, rfl, by decide, rfl, l3class_toBits _, rfl, rfl, rfl, rfl⟩
  next h12 =>
    obtain ⟨hlen, rfl, rfl, rfl, rfl, h⟩ := h
    rw [ethClassify, tpid, if_neg (by omega), if_neg h12]
    split_ifs at h with hlow hother
    · obtain ⟨rfl, rfl⟩ := h
      rw [if_pos hlow]
      exact ⟨_, rfl, by decide, rfl, rfl, rfl, rfl, rfl, rfl⟩
    · obtain ⟨rfl, rfl⟩ := h
      rw [if_neg hlow, if_neg (not_not_intro ((l3class_eq_other_iff _).2 hother))]
      exact ⟨_, rfl, by decide, rfl, rfl, rfl, rfl, rfl, rfl⟩
    · obtain ⟨rfl, rfl⟩ := h
      rw [if_neg hlow, if_pos (mt (l3class_eq_other_iff _).1 hother)]
      exact ⟨_, rfl, by decide, rfl, l3class_toBits _, rfl, rfl, rfl, rfl⟩

/-! ### ETH_PARSE (41_ethernet.md R152, 30_encoding.md R91) -/

theorem setWidth_half (h : Half) : h.setWidth 32 = 0#16 ++ h := by
  rw [BitVec.setWidth_eq_append (by decide)]
  rfl

section registers
variable (f : EthInfo)

@[simp] theorem ethInfo_res0_pkind : f.res0.extractLsb' 0 3 = f.pkind.toBits := by
  rw [EthInfo.res0, extract_right]

@[simp] theorem ethInfo_res0_bit3 : f.res0.extractLsb' 3 1 = 0#1 := by
  rw [EthInfo.res0, extract_high _ _ _ (by omega), extract_right]

@[simp] theorem ethInfo_res0_l3 : f.res0.extractLsb' 4 2 = f.l3.toBits := by
  rw [EthInfo.res0, extract_high _ _ _ (by omega), extract_high _ _ _ (by omega), extract_right]

@[simp] theorem ethInfo_res0_bits6 : f.res0.extractLsb' 6 2 = 0#2 := by
  rw [EthInfo.res0, extract_high _ _ _ (by omega), extract_high _ _ _ (by omega), extract_high _ _ _ (by omega),
    extract_right]

@[simp] theorem ethInfo_res0_hdr : f.res0.extractLsb' 8 8 = BitVec.ofNat 8 f.hdr := by
  rw [EthInfo.res0, extract_high _ _ _ (by omega), extract_high _ _ _ (by omega), extract_high _ _ _ (by omega),
    extract_high _ _ _ (by omega), extract_right]

@[simp] theorem ethInfo_res0_etype : f.res0.extractLsb' 16 16 = f.etype := by
  rw [EthInfo.res0, extract_high _ _ _ (by omega), extract_high _ _ _ (by omega), extract_high _ _ _ (by omega),
    extract_high _ _ _ (by omega), extract_left]

@[simp] theorem ethInfo_res1_vid0 : f.res1.extractLsb' 0 12 = f.vid0 := by
  rw [EthInfo.res1, extract_right]

@[simp] theorem ethInfo_res1_bits12 : f.res1.extractLsb' 12 4 = 0#4 := by
  rw [EthInfo.res1, extract_high _ _ _ (by omega), extract_right]

@[simp] theorem ethInfo_res1_vid1 : f.res1.extractLsb' 16 12 = f.vid1 := by
  rw [EthInfo.res1, extract_high _ _ _ (by omega), extract_high _ _ _ (by omega), extract_right]

@[simp] theorem ethInfo_res1_bits28 : f.res1.extractLsb' 28 4 = 0#4 := by
  rw [EthInfo.res1, extract_high _ _ _ (by omega), extract_high _ _ _ (by omega), extract_left]

end registers

/-- The six result registers hold the fields of the classification and the two addresses. -/
theorem ethResults_report (w : List Byte) {f : EthInfo} (hhdr : f.hdr < 256) (r : Results) :
    EthReport w f.pkind.toBits f.l3.toBits f.hdr f.etype f.vid0 f.vid1 (ethResults w f r) := by
  refine ⟨?res0, ?res1, append_pairs _ _ _ _, ?res3, append_pairs _ _ _ _, ?res5⟩
  case res0 => simpa [ethResults] using hhdr
  case res1 => simp [ethResults]
  case res3 | res5 =>
    simp only [ethResults, setWidth_half]
    exact ⟨extract_right _ _, extract_left _ _⟩

theorem ethParseBody_tooShort {w : List Byte} {need : Nat} (h : EthTooShort w need) (s : State) :
    ethParseBody s w = .error (wrongLength need) := by
  rw [ethParseBody, ethClassify_tooShort h]

theorem ethParseBody_ok {w : List Byte} {f : EthInfo} (h : ethClassify w = .ok f) (s : State) :
    ethParseBody s w = .ok { s with res := ethResults w f s.res } := by
  rw [ethParseBody, h]

/-- Settles O34: the two kinds of window are the two answers of the classification. -/
theorem ethParseReportsHeader : Obligations.EthParseReportsHeader := by
  refine ⟨windowEncoding_encode .ethParse, boundsChecked_of_buf fun _ => rfl, fun b s hin => ⟨fun need h => ?_, ?_⟩⟩
  · exact endsWith_inside rfl hin (ethParseBody_tooShort h s)
  · intro k l3 hdr e v0 v1 h
    obtain ⟨f, hf, hhdr, rfl, rfl, rfl, rfl, rfl, rfl⟩ := ethClassify_shape h
    exact ⟨_, exec_inside_ok rfl hin (ethParseBody_ok hf s), ethResults_report _ hhdr _, rfl, rfl⟩

/-! ### Set commands (41_ethernet.md R154 to R156) -/

theorem hasSpace_spaceOf (s : State) (b : Buf) : hasSpace s (spaceOf b) := by
  cases b <;> trivial

/-- A write into a window, then the completion, is a store of the statements. -/
theorem stores_winWrite (s : State) (b : Buf) (off : Nat) (bs : List Byte) :
    Stores s (complete (s.winWrite b off bs)) (spaceOf b) (winBase s + off) bs := by
  refine ⟨?_, fun j => ?_, fun sp' j h => ?_⟩
  · cases b <;> rfl
  · refine (readByte_writeBytes_same s (spaceOf b) _ j bs (hasSpace_spaceOf s b)).trans ?_
    split
    next hj => exact (List.getD_eq_getElem _ _ _).symm
    next => rfl
  · exact readByte_writeBytes_ne s _ j bs h

section setField
variable {i : Instr} {b : Buf} {s : State} {need off : Nat} {bs : List Byte}
  (hexec : exec i s = .next (withWindow b s fun _ => setField b s need off bs)) (hin : WindowFits b s)
include hexec hin

theorem endsWith_setField (hlen : winLen s < need) : EndsWith i s 0x02#8 (word32 need) :=
  endsWith_inside hexec hin (if_pos hlen)

theorem stores_setField (hlen : need ≤ winLen s) :
    ∃ t, exec i s = .next t ∧ Stores s t (spaceOf b) (winBase s + off) bs :=
  ⟨_, exec_inside_ok hexec hin (if_neg (Nat.not_lt.2 hlen)), stores_winWrite s b off bs⟩

end setField

/-- The six bytes of the MAC operand (30_encoding.md R87). -/
theorem wr48_argMac (s : State) :
    wr48 (argMac s) = [s.args.a2.extractLsb' 24 8, s.args.a2.extractLsb' 16 8, s.args.a2.extractLsb' 8 8,
      s.args.a2.extractLsb' 0 8, s.args.a3.extractLsb' 8 8, s.args.a3.extractLsb' 0 8] := by
  have hhigh : (argMac s).extractLsb' 16 32 = s.args.a2 := extract_left _ _
  have hlow : (argMac s).extractLsb' 0 16 = s.args.a3.extractLsb' 0 16 := extract_right _ _
  rw [wr48, hhigh, hlow]
  simp [wr32, wr16, BitVec.extractLsb'_extractLsb'_of_le]

/-- Settles O35: both commands are a `setField` of the MAC operand's bytes. -/
theorem ethSetAddressesStore : Obligations.EthSetAddressesStore := by
  refine ⟨windowEncoding_encode .ethSetDst, boundsChecked_of_buf fun _ => rfl, windowEncoding_encode .ethSetSrc,
    boundsChecked_of_buf fun _ => rfl, fun b s hin => ?_⟩
  simp only [← wr48_argMac]
  exact ⟨endsWith_setField rfl hin, stores_setField (off := 0) rfl hin, endsWith_setField rfl hin, stores_setField rfl hin⟩

/-! ### ETH_SET_PROTO (41_ethernet.md R156) -/

@[simp] theorem ofBits?_toBits (p : PKind) : PKind.ofBits? p.toBits = some p := by
  cases p <;> rfl

theorem toBits_toNat_lt (p : PKind) : p.toBits.toNat < 5 := by
  cases p <;> decide

/-- A code of PKIND is reserved, or it is the code of a kind (30_encoding.md R92). -/
theorem pkind_code_cases (k : BitVec 3) : (5 ≤ k.toNat ∧ PKind.ofBits? k = none) ∨ ∃ p : PKind, k = p.toBits := by
  unfold PKind.ofBits?
  split_ifs with h0 h1 h2 h3 h4
  · exact .inr ⟨.l3, h0⟩
  · exact .inr ⟨.q, h1⟩
  · exact .inr ⟨.qinq, h2⟩
  · exact .inr ⟨.length, h3⟩
  · exact .inr ⟨.unknown, h4⟩
  · refine .inl ⟨?_, rfl⟩
    bv_omega

/-- The two bytes of a TCI with priority and CFI 0 (30_encoding.md R102). -/
theorem wr16_tciOf (v : Vid) : wr16 (tciOf v) = [(v.extractLsb' 8 4).setWidth 8, v.extractLsb' 0 8] := by
  have hhigh : (v.setWidth 16).extractLsb' 8 8 = (v.extractLsb' 8 4).setWidth 8 := by
    ext i hi
    simp only [BitVec.getElem_extractLsb', BitVec.getElem_setWidth, BitVec.getLsbD_setWidth, BitVec.getLsbD_extractLsb']
    by_cases h4 : i < 4
    · simp [h4, show 8 + i < 16 by omega]
    · simp [h4, BitVec.getLsbD_of_ge v (8 + i) (by omega)]
  rw [wr16, tciOf, hhigh, BitVec.extractLsb'_setWidth_of_le (by decide)]

/-- The header of the statement is the one the command writes, with the length it asks for. -/
theorem protoHeader_toBits (p : PKind) (et : Half) (v0 v1 : Vid) :
    protoHeader p.toBits et v0 v1 = (protoNeed p, protoBytes p et v0 v1) := by
  cases p with
  | l3 | length | unknown => rfl
  | q | qinq =>
    simp only [protoBytes, wr16_tciOf]
    rfl

theorem ethSetProtoBody_reserved {s : State} (h : PKind.ofBits? (argPkind s) = none) (b : Buf) :
    ethSetProtoBody b s = .error { code := .illegal, info := s.args.a2 } := by
  rw [ethSetProtoBody, h]

/-- With the code of a kind, ETH_SET_PROTO is a `setField` of that kind's header. -/
theorem exec_ethSetProto {s : State} {p : PKind} (h : argPkind s = p.toBits) (b : Buf) :
    exec (.ethSetProto b) s = .next (withWindow b s fun _ =>
      setField b s (protoNeed p) 12 (protoBytes p (argEtype s) (argVid0 s) (argVid1 s))) := by
  have hbody : ethSetProtoBody b s
      = setField b s (protoNeed p) 12 (protoBytes p (argEtype s) (argVid0 s) (argVid1 s)) := by
    rw [ethSetProtoBody, h, ofBits?_toBits]
  rw [← hbody]
  rfl

/-- Settles O36: a reserved code is ILLEGAL, and with any other the command is a `setField` of the header. -/
theorem ethSetProtoStoresHeader : Obligations.EthSetProtoStoresHeader := by
  refine ⟨windowEncoding_encode .ethSetProto, boundsChecked_of_buf fun _ => rfl, fun b s hin => ?_⟩
  rcases pkind_code_cases (argPkind s) with ⟨h5, hnone⟩ | ⟨p, hp⟩
  · have hexec : exec (.ethSetProto b) s = .next (withWindow b s fun _ => ethSetProtoBody b s) := rfl
    exact (if_pos h5).mpr (endsWith_inside hexec hin (ethSetProtoBody_reserved hnone b))
  · have hlegal : ¬ 5 ≤ (argPkind s).toNat := by
      rw [hp, Nat.not_le]
      exact toBits_toNat_lt p
    have hheader := protoHeader_toBits p (argEtype s) (argVid0 s) (argVid1 s)
    rw [← hp] at hheader
    have hexec := exec_ethSetProto hp b
    simp only [argPkind, argEtype, argVid0, argVid1] at hlegal hheader hexec
    simp only [hlegal, hheader, if_false]
    split
    next hlen => exact endsWith_setField hexec hin hlen
    next hlen => exact stores_setField hexec hin (Nat.le_of_not_lt hlen)

/-! ### Fields of a window after a store (00_scope.md R10) -/

theorem wr16_join (v : Half) : v.extractLsb' 8 8 ++ v.extractLsb' 0 8 = v :=
  (extract_byte_append v 0).trans BitVec.extractLsb'_eq_self

@[simp] theorem tciVid_tciOf (v : Vid) : tciVid (tciOf v) = v := by
  rw [tciVid, tciOf, BitVec.extractLsb'_setWidth_of_le (by decide), BitVec.extractLsb'_eq_self]

section stores
variable {b : Buf} {s t : State} {sp : Space} {i off : Nat} {bs : List Byte}

theorem stores_args (h : Stores s t sp i bs) : t.args = s.args := by
  obtain ⟨ht, -⟩ := h
  exact (congrArg State.args ht).trans (setMem_args s sp _)

theorem stores_params (h : Stores s t sp i bs) : t.params = s.params := by
  obtain ⟨ht, -⟩ := h
  exact (congrArg State.params ht).trans (setMem_params s sp _)

theorem readByte_stored (h : Stores s t sp i bs) {n : Nat} (hn : n < bs.length) : t.readByte sp (i + n) = byteAt bs n := by
  obtain ⟨-, hbytes, -⟩ := h
  rw [hbytes, if_pos (by omega), Nat.add_sub_cancel_left, byteAt]

theorem stores_winBase (h : Stores s t sp i bs) : winBase t = winBase s := by
  rw [winBase, stores_args h, winBase]

theorem stores_winLen (h : Stores s t sp i bs) : winLen t = winLen s := by
  rw [winLen, stores_args h, winLen]

theorem stores_windowFits (h : Stores s t sp i bs) (hin : WindowFits b s) : WindowFits b t := by
  rw [WindowFits, stores_winBase h, stores_winLen h, stores_params h]
  exact hin

variable (h : Stores s t (spaceOf b) (winBase s + off) bs) (hlen : off + bs.length ≤ winLen s)
include h hlen

/-- A byte of the window that lies in the stored string is the string's. -/
theorem byteAt_winBytes_stored {n : Nat} (hn : n < bs.length) : byteAt (winBytes b t) (off + n) = byteAt bs n := by
  have hinside : off + n < winLen t := by
    rw [stores_winLen h]
    omega
  rw [winBytes, byteAt_readBytes _ _ _ _ _ hinside, stores_winBase h, ← Nat.add_assoc, readByte_stored h hn]

theorem rd16_winBytes_stored {n : Nat} (hn : n + 2 ≤ bs.length) : rd16 (winBytes b t) (off + n) = rd16 bs n := by
  rw [rd16, byteAt_winBytes_stored h hlen (by omega), Nat.add_assoc, byteAt_winBytes_stored h hlen (by omega), rd16]

end stores

/-! ### The tagging round trip (41_ethernet.md R157) -/

/-- The EtherTypes with which a header of this kind is read back as one of this kind. -/
def ReadsBack : PKind → Half → Prop
  | .l3, et => et = 0x0800#16 ∨ et = 0x0806#16 ∨ et = 0x86DD#16
  | .q, et => et ≠ 0x8100#16
  | .qinq, _ => True
  | .length, et => et.toNat < 0x05DC
  | .unknown, et => et ≠ 0x8100#16 ∧ et ≠ 0x0800#16 ∧ et ≠ 0x0806#16 ∧ et ≠ 0x86DD#16 ∧ 0x05DC ≤ et.toNat

theorem protoBytes_length (p : PKind) (et : Half) (v0 v1 : Vid) :
    12 + (protoBytes p et v0 v1).length = protoNeed p := by
  cases p <;> rfl

/-- A window that holds the header of a kind from byte 12 on has that kind's shape. -/
theorem ethShape_of_protoBytes {w : List Byte} {p : PKind} {et : Half} {v0 v1 : Vid} (hlen : protoNeed p ≤ w.length)
    (hw : ∀ n, 12 + (n + 2) ≤ protoNeed p → rd16 w (12 + n) = rd16 (protoBytes p et v0 v1) n)
    (hback : ReadsBack p et) :
    EthShape w p.toBits (if p.toBits = 3#3 ∨ p.toBits = 4#3 then 3#2 else l3Code et) (protoNeed p) et
      (if p.toBits = 1#3 ∨ p.toBits = 2#3 then v0 else 0#12) (if p.toBits = 2#3 then v1 else 0#12) := by
  unfold EthShape
  cases p with
  | qinq =>
    have h12 : rd16 w 12 = 0x8100#16 := (hw 0 (by decide)).trans (wr16_join _)
    have h14 : rd16 w 14 = tciOf v0 := (hw 2 (by decide)).trans (wr16_join _)
    have h16 : rd16 w 16 = 0x8100#16 := (hw 4 (by decide)).trans (wr16_join _)
    have h18 : rd16 w 18 = tciOf v1 := (hw 6 (by decide)).trans (wr16_join _)
    have h20 : rd16 w 20 = et := (hw 8 (by decide)).trans (wr16_join _)
    rw [if_pos h12, if_pos h16, h14, h18, h20]
    exact ⟨(tciVid_tciOf v0).symm, hlen, rfl, rfl, rfl, (tciVid_tciOf v1).symm, rfl⟩
  | q =>
    have h12 : rd16 w 12 = 0x8100#16 := (hw 0 (by decide)).trans (wr16_join _)
    have h14 : rd16 w 14 = tciOf v0 := (hw 2 (by decide)).trans (wr16_join _)
    have h16 : rd16 w 16 = et := (hw 4 (by decide)).trans (wr16_join _)
    rw [if_pos h12, h14, h16, if_neg hback]
    exact ⟨(tciVid_tciOf v0).symm, hlen, rfl, rfl, rfl, rfl, rfl⟩
  | length =>
    have h12 : rd16 w 12 = et := (hw 0 (by decide)).trans (wr16_join _)
    have hlow : et.toNat < 0x05DC := hback
    have htag : et ≠ 0x8100#16 := by bv_omega
    rw [h12, if_neg htag, if_pos hlow]
    exact ⟨hlen, rfl, rfl, rfl, rfl, rfl, rfl⟩
  | l3 =>
    have h12 : rd16 w 12 = et := (hw 0 (by decide)).trans (wr16_join _)
    rw [h12]
    rcases hback with rfl | rfl | rfl <;> exact ⟨hlen, rfl, rfl, rfl, rfl, rfl, rfl⟩
  | unknown =>
    have h12 : rd16 w 12 = et := (hw 0 (by decide)).trans (wr16_join _)
    obtain ⟨htag, hip, harp, hip6, hhigh⟩ := hback
    have hother : l3Code et = 3#2 := by rw [l3Code, if_neg hip, if_neg harp, if_neg hip6]
    rw [h12, if_neg htag, if_neg (Nat.not_lt.2 hhigh), if_pos hother]
    exact ⟨hlen, rfl, rfl, rfl, rfl, rfl, rfl⟩

/-- The window of ETH_SET_PROTO has the shape of the header it wrote. -/
theorem ethShape_of_stores {b : Buf} {s t : State} {p : PKind} {et : Half} {v0 v1 : Vid}
    (h : Stores s t (spaceOf b) (winBase s + 12) (protoBytes p et v0 v1)) (hlen : protoNeed p ≤ winLen s)
    (hback : ReadsBack p et) :
    EthShape (winBytes b t) p.toBits (if p.toBits = 3#3 ∨ p.toBits = 4#3 then 3#2 else l3Code et) (protoNeed p) et
      (if p.toBits = 1#3 ∨ p.toBits = 2#3 then v0 else 0#12) (if p.toBits = 2#3 then v1 else 0#12) := by
  have hbytes := protoBytes_length p et v0 v1
  refine ethShape_of_protoBytes ?_ (fun n hn => rd16_winBytes_stored h (by omega) (by omega)) hback
  rw [winBytes_length, stores_winLen h]
  exact hlen

theorem protoNeed_byte (p : PKind) :
    BitVec.ofNat 8 (protoNeed p) = if p.toBits = 1#3 then 18#8 else if p.toBits = 2#3 then 22#8 else 14#8 := by
  cases p <;> rfl

theorem protoNeed_le (p : PKind) : protoNeed p ≤ 22 := by
  cases p <;> decide

/-- Settles O37: the header that ETH_SET_PROTO stores has a shape, and ETH_PARSE reports the shape of its window. -/
theorem taggingRoundTrip : Obligations.TaggingRoundTrip := by
  intro b s t k et v0 v1 hin hlen hk het hv0 hv1 hkind hset
  obtain ⟨p, rfl, hback⟩ : ∃ p : PKind, k = p.toBits ∧ ReadsBack p et := by
    rcases hkind with rfl | ⟨rfl, h⟩ | ⟨rfl, h⟩ | ⟨rfl, h⟩ | ⟨rfl, h⟩
    · exact ⟨.qinq, rfl, trivial⟩
    · exact ⟨.q, rfl, h⟩
    · exact ⟨.l3, rfl, h⟩
    · exact ⟨.length, rfl, h⟩
    · exact ⟨.unknown, rfl, h⟩
  have hneed : protoNeed p ≤ winLen s := Nat.le_trans (protoNeed_le p) hlen
  obtain ⟨t', hset', hstores⟩ := stores_setField (exec_ethSetProto hk.symm b) hin hneed
  cases hset.symm.trans hset'
  rw [argEtype, argVid0, argVid1, ← het, ← hv0, ← hv1] at hstores
  obtain ⟨-, -, hparse⟩ := ethParseReportsHeader
  obtain ⟨r, hexec, ⟨⟨hr0, -, hrl3, -, hrhdr, hret⟩, ⟨hrv0, -, hrv1, -⟩, -⟩, -⟩ :=
    (hparse b t (stores_windowFits hstores hin)).2 _ _ _ _ _ _ (ethShape_of_stores hstores hneed hback)
  refine ⟨_, hexec, rfl, hr0, hrl3, ?_, hret, hrv0, hrv1⟩
  rw [← protoNeed_byte, ← hrhdr, BitVec.ofNat_toNat, BitVec.setWidth_eq]
  rfl

end Sys2Proof.Machine
end

section
/-!
PROOFS. The VLAN statement (42_vlan.md). The header part is that of ETH_PARSE; what is new is the check, whose reason is the
statements' `vlanReason`, and the payload's place, which no register cuts because the window fits.
-/

namespace Sys2Proof.Machine

open Sys2Proof

/-! ### The VLAN check (42_vlan.md R171) -/

theorem matchLevel0_iff (c : VlanCfg) (v : Vid) : matchLevel0 c v = true ↔ c.vid0En = true ∧ v = c.vid0 := by
  simp [matchLevel0]

theorem matchLevel1_iff (c : VlanCfg) (v : Vid) : matchLevel1 c v = true ↔ c.vid1En = true ∧ v = c.vid1 := by
  simp [matchLevel1]

theorem reasonByte_vlanCheck (c : VlanCfg) (p : PKind) (v0 v1 : Vid) :
    reasonByte (vlanCheck c p v0 v1) = vlanReason c p.toBits v0 v1 := by
  cases p with
  | l3 | length | unknown => rfl
  | q =>
    simp only [vlanCheck, apply_ite reasonByte, matchLevel0_iff]
    rfl
  | qinq =>
    simp only [vlanCheck, apply_ite reasonByte, Bool.and_eq_true, matchLevel0_iff, matchLevel1_iff, and_assoc]
    rfl

/-- The reason is 0x00 exactly where nothing is dropped (60_exceptions.md R266). -/
theorem isNone_iff_reasonByte (r : Option DropReason) : r.isNone = true ↔ reasonByte r = 0x00#8 := by
  cases r with
  | none => decide
  | some d => cases d <;> decide

/-! ### VLAN_STRIP (42_vlan.md R172, 30_encoding.md R93) -/

theorem vlanRes6_fields (n : Nat) (r : Option DropReason) :
    ((vlanRes6 n r).getLsbD 0 = true ↔ reasonByte r = 0x00#8) ∧ (vlanRes6 n r).extractLsb' 1 7 = 0#7
      ∧ (vlanRes6 n r).extractLsb' 8 8 = reasonByte r ∧ (vlanRes6 n r).extractLsb' 16 16 = BitVec.ofNat 16 n := by
  unfold vlanRes6
  refine ⟨?_, ?_, ?_, ?_⟩
  · rw [getLsbD_append_bit, isNone_iff_reasonByte]
  · rw [extract_high _ _ _ (by omega), extract_right]
  · rw [extract_high _ _ _ (by omega), extract_high _ _ _ (by omega), extract_right]
  · rw [extract_high _ _ _ (by omega), extract_high _ _ _ (by omega), extract_left]

/-- The sizes of the buffers are 16-bit, and so are the ends of the windows that fit in them (00_scope.md R7). -/
theorem window_end_lt {b : Buf} {s : State} (hin : WindowFits b s) : winBase s + winLen s < 2 ^ 16 := by
  refine Nat.lt_of_le_of_lt hin ?_
  cases b with
  | rx => exact s.params.rxBufSize.isLt
  | tx => exact s.params.txBufSize.isLt

/-- A register holds the whole index of any place in a window that fits. -/
theorem word32_winBase_add {b : Buf} {s : State} (hin : WindowFits b s) {off : Nat} (hoff : off ≤ winLen s) :
    (word32 (winBase s + off)).toNat = winBase s + off := by
  have hend := window_end_lt hin
  exact Nat.mod_eq_of_lt (by omega)

/-- RES0..RES7 of VLAN_STRIP on a window classified as `f`: those of ETH_PARSE, the check, the payload's place. -/
def vlanResults (s : State) (w : List Byte) (f : EthInfo) : Results :=
  ethResults w f { s.res with
    r6 := vlanRes6 (winLen s - f.hdr) (vlanCheck s.vlanCfg f.pkind f.vid0 f.vid1)
    r7 := word32 (winBase s + f.hdr) }

theorem vlanStripBody_tooShort {w : List Byte} {need : Nat} (h : EthTooShort w need) (s : State) :
    vlanStripBody s w = .error (wrongLength need) := by
  rw [vlanStripBody, ethClassify_tooShort h]

theorem vlanStripBody_ok {w : List Byte} {f : EthInfo} (h : ethClassify w = .ok f) (s : State) :
    vlanStripBody s w = .ok { s with res := vlanResults s w f } := by
  rw [vlanStripBody, h]
  rfl

/-- Settles O38: the classification answers as for ETH_PARSE, and a check that fails is one more value of RES6. -/
theorem vlanStripReportsPayload : Obligations.VlanStripReportsPayload := by
  refine ⟨windowEncoding_encode .vlanStrip, boundsChecked_of_buf fun _ => rfl, fun b s hin => ⟨fun need h => ?_, ?_⟩⟩
  · exact endsWith_inside rfl hin (vlanStripBody_tooShort h s)
  · intro k l3 hdr e v0 v1 h
    obtain ⟨f, hf, hhdr, rfl, rfl, rfl, rfl, rfl, rfl⟩ := ethClassify_shape h
    have hle : f.hdr ≤ winLen s := winBytes_length b s ▸ ethClassify_hdr_le hf
    rw [← reasonByte_vlanCheck]
    obtain ⟨hpass, hzero, hreason, hlen⟩ :=
      vlanRes6_fields (winLen s - f.hdr) (vlanCheck s.vlanCfg f.pkind f.vid0 f.vid1)
    exact ⟨_, exec_inside_ok rfl hin (vlanStripBody_ok hf s), ethResults_report _ hhdr _, hpass, hzero, hreason, hlen,
      word32_winBase_add hin hle⟩

end Sys2Proof.Machine
end

section
/-!
PROOFS. The ARP statements (43_arp.md). A set command is a list of writes into its window, so the byte it leaves at an offset
is that of the latest write that covers the offset; the round trip then reads the address fields back from these bytes.
-/

namespace Sys2Proof.Machine

open Sys2Proof

/-! ### ARP_PARSE (43_arp.md R181 to R183, 30_encoding.md R94) -/

/-- What `arp_addrs` returns of a packet that passes its checks (R182). -/
def arpInfoOf (w : List Byte) : ArpInfo :=
  { htype := rd16 w 0
    ptype := rd16 w 2
    hlen := (byteAt w 4).toNat
    plen := (byteAt w 5).toNat
    sha := if rd16 w 0 = 1#16 then rd48 w 8 else 0#48
    spa := if rd16 w 2 = 0x0800#16 then rd32 w (8 + (byteAt w 4).toNat) else 0#32
    tha := if rd16 w 0 = 1#16 then rd48 w (8 + (byteAt w 4).toNat + (byteAt w 5).toNat) else 0#48
    tpa := if rd16 w 2 = 0x0800#16 then rd32 w (8 + 2 * (byteAt w 4).toNat + (byteAt w 5).toNat) else 0#32 }

/-- Everything `arp_addrs` can answer, its four errors in their order (R181, R182). -/
theorem arpAddrs_eq (w : List Byte) :
    arpAddrs w =
      if w.length < 8 then .error { code := .truncated, info := word32 8 }
      else if w.length < 8 + 2 * (byteAt w 4).toNat + 2 * (byteAt w 5).toNat then
        .error { code := .wrongLengthForArpPacket, info := word32 (8 + 2 * (byteAt w 4).toNat + 2 * (byteAt w 5).toNat) }
      else if rd16 w 0 = 1#16 ∧ (byteAt w 4).toNat ≠ 6 then
        .error { code := .wrongLengthForEthernetAddress, info := word32 (byteAt w 4).toNat }
      else if rd16 w 2 = 0x0800#16 ∧ (byteAt w 5).toNat ≠ 4 then
        .error { code := .wrongLengthForIpv4Address, info := word32 (byteAt w 5).toNat }
      else .ok (arpInfoOf w) := by
  rcases arpCheckLen_cases w with ⟨hshort, h⟩ | ⟨h8, hlen, h⟩ | ⟨h8, hlen, h⟩
  · rw [arpAddrs, h, if_pos hshort]
  · rw [arpAddrs, h, if_neg (Nat.not_lt.2 h8), if_pos hlen]
  · rw [arpAddrs, h, if_neg (Nat.not_lt.2 h8), if_neg (Nat.not_lt.2 hlen)]
    rfl

theorem arpParseBody_error {w : List Byte} {e : Err} (h : arpAddrs w = .error e) (s : State) :
    arpParseBody s w = .error e := by
  rw [arpParseBody, h]

theorem arpParseBody_ok {w : List Byte} {f : ArpInfo} (h : arpAddrs w = .ok f) (s : State) :
    arpParseBody s w = .ok { s with res := arpResults w f } := by
  rw [arpParseBody, h]

theorem rd48_high (w : List Byte) (i : Nat) : (rd48 w i).extractLsb' 16 32 = rd32 w i :=
  extract_left _ _

theorem rd48_low (w : List Byte) (i : Nat) : (rd48 w i).extractLsb' 0 16 = rd16 w (i + 4) :=
  extract_right _ _

section registers
variable (w : List Byte)

theorem arpResults_r1_hlen : ((arpResults w (arpInfoOf w)).r1.extractLsb' 0 8).toNat = (byteAt w 4).toNat := by
  rw [arpResults, extract_right]
  simp [arpInfoOf]

theorem arpResults_r1_plen : ((arpResults w (arpInfoOf w)).r1.extractLsb' 8 8).toNat = (byteAt w 5).toNat := by
  rw [arpResults, extract_high _ _ _ (by omega), extract_right]
  simp [arpInfoOf]

theorem arpResults_r1_oper : (arpResults w (arpInfoOf w)).r1.extractLsb' 16 16 = rd16 w 6 := by
  rw [arpResults, extract_high _ _ _ (by omega), extract_left]

theorem arpResults_r2 : (arpResults w (arpInfoOf w)).r2 = if rd16 w 0 = 1#16 then rd32 w 8 else 0#32 := by
  simp only [arpResults, arpInfoOf, apply_ite (BitVec.extractLsb' 16 32), rd48_high]
  rfl

theorem arpResults_r3 :
    (arpResults w (arpInfoOf w)).r3 = if rd16 w 0 = 1#16 then (rd16 w 12).setWidth 32 else 0#32 := by
  simp only [arpResults, arpInfoOf, apply_ite (BitVec.extractLsb' 0 16), apply_ite (BitVec.setWidth 32), rd48_low]
  rfl

theorem arpResults_r5 :
    (arpResults w (arpInfoOf w)).r5
      = if rd16 w 0 = 1#16 then rd32 w (8 + (byteAt w 4).toNat + (byteAt w 5).toNat) else 0#32 := by
  simp only [arpResults, arpInfoOf, apply_ite (BitVec.extractLsb' 16 32), rd48_high]
  rfl

theorem arpResults_r6 :
    (arpResults w (arpInfoOf w)).r6
      = if rd16 w 0 = 1#16 then (rd16 w (12 + (byteAt w 4).toNat + (byteAt w 5).toNat)).setWidth 32 else 0#32 := by
  have hoff : 8 + (byteAt w 4).toNat + (byteAt w 5).toNat + 4 = 12 + (byteAt w 4).toNat + (byteAt w 5).toNat := by omega
  simp only [arpResults, arpInfoOf, apply_ite (BitVec.extractLsb' 0 16), apply_ite (BitVec.setWidth 32), rd48_low, hoff]
  rfl

end registers

/-- Settles O39: the window's checks are those of `arp_addrs`, and the registers hold the fields it returns. -/
theorem arpParseReportsPacket : Obligations.ArpParseReportsPacket := by
  refine ⟨windowEncoding_encode .arpParse, boundsChecked_of_buf fun _ => rfl, fun b s hin => ?_⟩
  have herror {e : Err} (h : arpAddrs (winBytes b s) = .error e) : EndsWith (.arpParse b) s e.code.toByte e.info :=
    endsWith_inside rfl hin (arpParseBody_error h s)
  have heq := arpAddrs_eq (winBytes b s)
  dsimp only
  split
  next hshort => exact herror (heq.trans (if_pos hshort))
  next hshort =>
    rw [if_neg hshort] at heq
    split
    next hlen => exact herror (heq.trans (if_pos hlen))
    next hlen =>
      rw [if_neg hlen] at heq
      split
      next hhw => exact herror (heq.trans (if_pos hhw))
      next hhw =>
        rw [if_neg hhw] at heq
        split
        next hpr => exact herror (heq.trans (if_pos hpr))
        next hpr =>
          rw [if_neg hpr] at heq
          exact ⟨arpResults _ (arpInfoOf _), exec_inside_ok rfl hin (arpParseBody_ok heq s), extract_right _ _,
            extract_left _ _, arpResults_r1_hlen _, arpResults_r1_plen _, arpResults_r1_oper _, arpResults_r2 _,
            arpResults_r3 _, rfl, arpResults_r5 _, arpResults_r6 _, rfl⟩

/-! ### ARP_SET_OPER (43_arp.md R187) -/

theorem wr16_arg2Low (s : State) : wr16 (arg2Low s) = [s.args.a2.extractLsb' 8 8, s.args.a2.extractLsb' 0 8] := by
  simp [wr16, arg2Low, BitVec.extractLsb'_extractLsb'_of_le]

/-- Settles O41: the command is a `setField` of the operation's two bytes. -/
theorem arpSetOperStores : Obligations.ArpSetOperStores := by
  refine ⟨windowEncoding_encode .arpSetOper, boundsChecked_of_buf fun _ => rfl, fun b s hin => ?_⟩
  rw [← wr16_arg2Low]
  exact ⟨endsWith_setField rfl hin, stores_setField rfl hin⟩

/-! ### ARP_SET_SRC_MAP and ARP_SET_TGT_MAP (43_arp.md R184 to R186) -/

/-- The byte at window offset `j` after a list of window writes, where `old` was: that of the latest write that covers it. -/
def byteAfter (j : Nat) (old : Byte) : List (Nat × List Byte) → Byte
  | [] => old
  | (off, bs) :: l => byteAfter j (if off ≤ j ∧ j < off + bs.length then byteAt bs (j - off) else old) l

theorem readByte_winWrite (s : State) (b : Buf) (off : Nat) (bs : List Byte) (j : Nat) :
    (s.winWrite b off bs).readByte (spaceOf b) (winBase s + j)
      = if off ≤ j ∧ j < off + bs.length then byteAt bs (j - off) else s.readByte (spaceOf b) (winBase s + j) := by
  obtain ⟨-, hbytes, -⟩ := stores_winWrite s b off bs
  refine (hbytes (winBase s + j)).trans ?_
  rw [byteAt, Nat.add_sub_add_left]
  exact if_congr (by omega) rfl rfl

/-- A list of window writes leaves `byteAfter` at each offset of the window's space. -/
theorem readByte_winWrites (b : Buf) (l : List (Nat × List Byte)) (s : State) (j : Nat) :
    (s.winWrites b l).readByte (spaceOf b) (winBase s + j) = byteAfter j (s.readByte (spaceOf b) (winBase s + j)) l := by
  induction l generalizing s with
  | nil => rfl
  | cons x l ih =>
    obtain ⟨off, bs⟩ := x
    have hbase : winBase s = winBase (s.winWrite b off bs) :=
      congrArg (fun a : Args => a.a0.toNat) (writeBytes_args s _ _ bs).symm
    rw [byteAfter, ← readByte_winWrite, hbase]
    exact ih _

/-- A field of a field. -/
theorem extract_extract {n : Nat} (v : BitVec n) (start len start' : Nat) {len' : Nat} (h : start' + len' ≤ len) :
    (v.extractLsb' start len).extractLsb' start' len' = v.extractLsb' (start + start') len' := by
  apply BitVec.eq_of_getLsbD_eq
  intro i hi
  simp only [BitVec.getLsbD_extractLsb', hi, show start' + i < len by omega, decide_true, Bool.true_and, Nat.add_assoc]

theorem byteAt_wr32 (v : Word) {k : Nat} (hk : k < 4) : byteAt (wr32 v) k = v.extractLsb' (8 * (3 - k)) 8 := by
  interval_cases k <;> rfl

theorem byteAt_wr48 (v : Mac) {k : Nat} (hk : k < 6) : byteAt (wr48 v) k = v.extractLsb' (8 * (5 - k)) 8 := by
  interval_cases k <;> simp [byteAt, wr48, wr32, wr16, extract_extract]

/-- A write that is made only if `skip` is not set. -/
theorem ite_optional_write (skip : Bool) (off : Nat) (bs : List Byte) (j : Nat) (old : Byte) :
    (if off ≤ j ∧ j < off + (if skip then [] else bs).length then byteAt (if skip then [] else bs) (j - off) else old)
      = if skip = false ∧ off ≤ j ∧ j < off + bs.length then byteAt bs (j - off) else old := by
  cases skip with
  | false => simp
  | true => exact (if_neg fun ⟨hle, hlt⟩ => Nat.not_lt.2 hle hlt).trans (if_neg fun ⟨hskip, _⟩ => nomatch hskip).symm

/-- The bytes of the fixed part that a set command writes, for the raw words `ht` and `pt` of the two types (R184). -/
def arpFixedByte (hwk prk : Bool) (ht pt : Half) (j : Nat) (old : Byte) : Byte :=
  if j = 0 then ht.extractLsb' 8 8 else if j = 1 then ht.extractLsb' 0 8
  else if j = 2 then pt.extractLsb' 8 8 else if j = 3 then pt.extractLsb' 0 8
  else if hwk = false ∧ j = 4 then 6#8 else if prk = false ∧ j = 5 then 4#8 else old

theorem arpFixedByte_beyond (hwk prk : Bool) (ht pt : Half) {j : Nat} (hj : 6 ≤ j) (old : Byte) :
    arpFixedByte hwk prk ht pt j old = old := by
  simp (disch := omega) only [arpFixedByte, if_neg]

theorem byteAfter_fixed (hwk prk : Bool) (ht pt : Half) (j : Nat) (old : Byte) :
    byteAfter j old [(0, wr16 ht), (2, wr16 pt), (4, if hwk then [] else [6#8]), (5, if prk then [] else [4#8])]
      = arpFixedByte hwk prk ht pt j old := by
  simp only [byteAfter, ite_optional_write]
  by_cases hj : j < 6
  · interval_cases j <;> simp [arpFixedByte, byteAt, wr16]
  · rw [arpFixedByte_beyond _ _ _ _ (Nat.le_of_not_lt hj), if_neg (by rw [List.length_singleton]; omega),
      if_neg (by rw [List.length_singleton]; omega), if_neg (by rw [wr16_length]; omega), if_neg (by rw [wr16_length]; omega)]

/-- The byte a set command leaves at a window offset: its two addresses lie after the fixed part, the protocol address
written last (R184). -/
theorem byteAfter_arpSetWrites (side : ArpSide) (s : State) (w : List Byte) (j : Nat) (old : Byte) :
    byteAfter j old (arpSetWrites side s w) =
      (let hl := arpSetHlen (argHwk s) w
       let pl := arpSetPlen (argPrk s) w
       if argPrk s = false ∧ arpPrOff side hl pl ≤ j ∧ j < arpPrOff side hl pl + 4 then
         byteAt (wr32 (argArpIp s)) (j - arpPrOff side hl pl)
       else if argHwk s = false ∧ arpHwOff side hl pl ≤ j ∧ j < arpHwOff side hl pl + 6 then
         byteAt (wr48 (argMac s)) (j - arpHwOff side hl pl)
       else arpFixedByte (argHwk s) (argPrk s) (if argHwk s then argRawHtype s else 1#16)
         (if argPrk s then argRawPtype s else 0x0800#16) j old) := by
  rw [← byteAfter_fixed]
  simp only [arpSetWrites, byteAfter, ite_optional_write, htypeEthernet, ptypeIpv4, wr32_length, wr48_length]
  rfl

/-- The window length a set command needs (R184). -/
def arpNeed (side : ArpSide) (s : State) (w : List Byte) : Nat :=
  arpSetEnd side (argHwk s) (argPrk s) (arpSetHlen (argHwk s) w) (arpSetPlen (argPrk s) w)

section setMap
variable (side : ArpSide) (b : Buf) (s : State) {w : List Byte}

theorem arpSetMap_short (h8 : w.length < 8) :
    arpSetMap side b s w = .error { code := .bounds, info := word32 8 } :=
  if_pos h8

theorem arpSetMap_outside (h8 : ¬ w.length < 8) (hlen : w.length < arpNeed side s w) :
    arpSetMap side b s w = .error { code := .bounds, info := word32 (arpNeed side s w) } :=
  (if_neg h8).trans (if_pos hlen)

theorem arpSetMap_ok (h8 : ¬ w.length < 8) (hlen : ¬ w.length < arpNeed side s w) :
    arpSetMap side b s w = .ok (s.winWrites b (arpSetWrites side s w)) :=
  (if_neg h8).trans (if_neg hlen)

end setMap

/-- A store inside the window, then the completion, changes the bytes of one space only. -/
theorem WindowStore.complete_eq {b : Buf} {s u : State} (h : WindowStore b s u) :
    complete u = succeeded (s.setMem (spaceOf b) ((complete u).memOf (spaceOf b))) := by
  obtain ⟨m, rfl, -⟩ := h
  cases b <;> rfl

theorem WindowStore.readByte_outside {b : Buf} {s u : State} (h : WindowStore b s u) {sp : Space} {j : Nat}
    (hj : ¬ (sp = spaceOf b ∧ winBase s ≤ j ∧ j < winBase s + winLen s)) : u.readByte sp j = s.readByte sp j := by
  have hepoch : u.epoch = s.epoch := by
    obtain ⟨m, rfl, -⟩ := h
    exact setMem_epoch s (spaceOf b) m
  exact readByte_congr hepoch (h.lookup_outside hj)

/-- The commands of both sides make the writes of their side, with all checks before the first (R185, R186). -/
theorem arpMapSpec_of_exec {mk : Buf → Instr} (side : ArpSide)
    (hexec : ∀ b s, exec (mk b) s = .next (withWindow b s (arpSetMap side b s))) :
    ArpMapSpec mk (arpHwOff side) (arpPrOff side) := by
  intro b s hin
  simp only [← Nat.max_assoc]
  by_cases h8 : (winBytes b s).length < 8
  · exact (if_pos h8).mpr (endsWith_inside (hexec b s) hin (arpSetMap_short side b s h8))
  rw [if_neg h8]
  by_cases hlen : (winBytes b s).length < arpNeed side s (winBytes b s)
  · exact (if_pos hlen).mpr (endsWith_inside (hexec b s) hin (arpSetMap_outside side b s h8 hlen))
  refine (if_neg hlen).mpr ?_
  have hok := arpSetMap_ok side b s h8 hlen
  have hstore := arpSetMap_store (spaceSize_eq_spaceBytes s.params (spaceOf b) ▸ hin) hok
  refine ⟨_, exec_inside_ok (hexec b s) hin hok, hstore.complete_eq, fun sp' j hsp => ?_, fun j hj => ?_, fun j => ?_⟩
  · exact hstore.readByte_outside fun ⟨heq, _⟩ => hsp heq
  · exact hstore.readByte_outside fun ⟨_, hle, _⟩ => Nat.not_lt.2 hle hj
  · refine (readByte_winWrites b _ s j).trans ((byteAfter_arpSetWrites side s _ j _).trans ?_)
    exact ite_congr rfl (fun ⟨_, hle, hlt⟩ => byteAt_wr32 _ (Nat.sub_lt_left_of_lt_add hle hlt)) fun _ =>
      ite_congr rfl (fun ⟨_, hle, hlt⟩ => byteAt_wr48 _ (Nat.sub_lt_left_of_lt_add hle hlt)) fun _ => rfl

/-- The set command of a side. -/
def arpSetInstr : ArpSide → Buf → Instr
  | .src, b => .arpSetSrcMap b
  | .tgt, b => .arpSetTgtMap b

theorem exec_arpSetInstr (side : ArpSide) (b : Buf) (s : State) :
    exec (arpSetInstr side b) s = .next (withWindow b s (arpSetMap side b s)) := by
  cases side <;> rfl

/-- Settles O40: the two commands are the two sides. -/
theorem arpSetMapsStore : Obligations.ArpSetMapsStore :=
  ⟨windowEncoding_encode .arpSetSrcMap, boundsChecked_of_buf fun _ => rfl, windowEncoding_encode .arpSetTgtMap,
    boundsChecked_of_buf fun _ => rfl, arpMapSpec_of_exec .src (exec_arpSetInstr .src),
    arpMapSpec_of_exec .tgt (exec_arpSetInstr .tgt)⟩

/-! ### The round trip (43_arp.md R188) -/

/-- The bytes `bs` lie in `w` from offset `off` on. -/
def HoldsAt (w : List Byte) (off : Nat) (bs : List Byte) : Prop :=
  ∀ k, k < bs.length → byteAt w (off + k) = byteAt bs k

section holdsAt
variable {w bs : List Byte} {off n : Nat} (h : HoldsAt w off bs)
include h

theorem HoldsAt.rd16 (hn : n + 2 ≤ bs.length) : rd16 w (off + n) = rd16 bs n := by
  rw [Machine.rd16, h n (by omega), Nat.add_assoc, h (n + 1) (by omega), Machine.rd16]

theorem HoldsAt.rd32 (hn : n + 4 ≤ bs.length) : rd32 w (off + n) = rd32 bs n := by
  rw [Machine.rd32, h.rd16 (by omega), Nat.add_assoc, h.rd16 (by omega), Machine.rd32]

theorem HoldsAt.rd48 (hn : n + 6 ≤ bs.length) : rd48 w (off + n) = rd48 bs n := by
  rw [Machine.rd48, h.rd32 (by omega), Nat.add_assoc, h.rd16 (by omega), Machine.rd48]

end holdsAt

theorem byteAt_append (x y : List Byte) (j : Nat) :
    byteAt (x ++ y) j = if j < x.length then byteAt x j else byteAt y (j - x.length) := by
  unfold byteAt
  split
  next hj => exact List.getD_append x y _ j hj
  next hj => exact List.getD_append_right x y _ j (Nat.le_of_not_lt hj)

/-- The MAC address in the operands of a set command (30_encoding.md R87). -/
def macOf (a : Args) : Mac := a.a2 ++ a.a3.extractLsb' 0 16

theorem macOf_high (a : Args) : (macOf a).extractLsb' 16 32 = a.a2 := extract_left _ _

theorem macOf_low (a : Args) : (macOf a).extractLsb' 0 16 = a.a3.extractLsb' 0 16 := extract_right _ _

/-- The addresses that the operands `a` give, as they lie in a packet of the two known types. -/
def arpPair (a : Args) : List Byte := wr48 (macOf a) ++ wr32 a.a4

theorem rd32_wr32_append (v : Word) (t : List Byte) : rd32 (wr32 v ++ t) 0 = v :=
  calc rd32 (wr32 v ++ t) 0
    _ = (v.extractLsb' 24 8 ++ v.extractLsb' 16 8) ++ (v.extractLsb' 8 8 ++ v.extractLsb' 0 8) := rfl
    _ = v.extractLsb' 16 16 ++ v.extractLsb' 0 16 := by rw [extract_byte_append v 16, extract_byte_append v 0]
    _ = v := (BitVec.extractLsb'_append_extractLsb'_eq_extractLsb' rfl).trans BitVec.extractLsb'_eq_self

theorem rd48_wr48_append (v : Mac) (t : List Byte) : rd48 (wr48 v ++ t) 0 = v :=
  calc rd48 (wr48 v ++ t) 0
    _ = rd32 (wr32 (v.extractLsb' 16 32) ++ (wr16 (v.extractLsb' 0 16) ++ t)) 0
        ++ ((v.extractLsb' 0 16).extractLsb' 8 8 ++ (v.extractLsb' 0 16).extractLsb' 0 8) := rfl
    _ = v.extractLsb' 16 32 ++ v.extractLsb' 0 16 := by rw [rd32_wr32_append, wr16_join]
    _ = v := (BitVec.extractLsb'_append_extractLsb'_eq_extractLsb' rfl).trans BitVec.extractLsb'_eq_self

theorem rd48_arpPair (a : Args) : rd48 (arpPair a) 0 = macOf a := rd48_wr48_append _ _

theorem rd32_arpPair (a : Args) : rd32 (arpPair a) 6 = a.a4 := rd32_wr32_append a.a4 []

/-- The first six bytes of a packet of the two known types. -/
def arpKnownFixed : List Byte := [0x00#8, 0x01#8, 0x08#8, 0x00#8, 0x06#8, 0x04#8]

/-- The window `w` before and `w'` after a set command of both known types with the operands `a`. -/
def ArpPairSet (side : ArpSide) (a : Args) (w w' : List Byte) : Prop :=
  ∀ j, j < w.length → byteAt w' j =
    if arpHwOff side 6 4 ≤ j ∧ j < arpHwOff side 6 4 + 10 then byteAt (arpPair a) (j - arpHwOff side 6 4)
    else arpFixedByte false false 1#16 0x0800#16 j (byteAt w j)

theorem arpPrOff_known (side : ArpSide) : arpPrOff side 6 4 = arpHwOff side 6 4 + 6 := by
  cases side <;> rfl

theorem arpHwOff_known_bounds (side : ArpSide) : 8 ≤ arpHwOff side 6 4 ∧ arpHwOff side 6 4 ≤ 18 := by
  cases side <;> decide

/-- The two pairs of addresses do not overlap. -/
theorem arpHwOff_known_disjoint {x y : ArpSide} (h : x ≠ y) :
    arpHwOff x 6 4 + 10 ≤ arpHwOff y 6 4 ∨ arpHwOff y 6 4 + 10 ≤ arpHwOff x 6 4 := by
  match x, y, h with
  | .src, .src, h | .tgt, .tgt, h => exact absurd rfl h
  | .src, .tgt, _ => exact .inl (Nat.le_refl 18)
  | .tgt, .src, _ => exact .inr (Nat.le_refl 18)

section pairSet
variable {x y : ArpSide} {a : Args} {w w' : List Byte} (h : ArpPairSet x a w w') (hlen : 28 ≤ w.length)
include h hlen

theorem ArpPairSet.fixed : HoldsAt w' 0 arpKnownFixed := by
  obtain ⟨hlo, -⟩ := arpHwOff_known_bounds x
  intro k hk
  have hk6 : k < 6 := hk
  rw [Nat.zero_add, h k (by omega), if_neg (by omega)]
  interval_cases k <;> rfl

theorem ArpPairSet.pair : HoldsAt w' (arpHwOff x 6 4) (arpPair a) := by
  obtain ⟨-, hhi⟩ := arpHwOff_known_bounds x
  intro k hk
  have hk10 : k < 10 := hk
  rw [h _ (by omega), if_pos (by omega), Nat.add_sub_cancel_left]

/-- A pair that was written stays when the other one is. -/
theorem ArpPairSet.keeps (hxy : x ≠ y) {a' : Args} (hpair : HoldsAt w (arpHwOff y 6 4) (arpPair a')) :
    HoldsAt w' (arpHwOff y 6 4) (arpPair a') := by
  have hdisjoint := arpHwOff_known_disjoint hxy
  obtain ⟨hlo, hhi⟩ := arpHwOff_known_bounds y
  intro k hk
  have hk10 : k < 10 := hk
  rw [h _ (by omega), if_neg (by omega), arpFixedByte_beyond _ _ _ _ (by omega), hpair k hk]

end pairSet

/-- What `arp_addrs` returns of a packet of the two known types with these pairs of addresses. -/
def arpKnownInfo (src tgt : Args) : ArpInfo :=
  { htype := 1#16
    ptype := 0x0800#16
    hlen := 6
    plen := 4
    sha := macOf src
    spa := src.a4
    tha := macOf tgt
    tpa := tgt.a4 }

theorem arpKnownInfo_r0 (w : List Byte) (src tgt : Args) : (arpResults w (arpKnownInfo src tgt)).r0 = 0x08000001#32 := by
  change (0x0800#16 ++ 0x0001#16 : Word) = 0x08000001#32
  decide

theorem arpKnownInfo_r1 (w : List Byte) (src tgt : Args) :
    (arpResults w (arpKnownInfo src tgt)).r1.extractLsb' 0 16 = 0x0406#16 := by
  rw [← extract_byte_append _ 0, arpResults, extract_right, extract_high _ _ _ (by omega), extract_right]
  simp only [arpKnownInfo]
  decide

/-- ARP_PARSE of a packet of the two known types that holds these pairs of addresses. -/
theorem arpAddrs_known {w : List Byte} {src tgt : Args} (hlen : 28 ≤ w.length) (hfixed : HoldsAt w 0 arpKnownFixed)
    (hsrc : HoldsAt w 8 (arpPair src)) (htgt : HoldsAt w 18 (arpPair tgt)) :
    arpAddrs w = .ok (arpKnownInfo src tgt) := by
  have hht : rd16 w 0 = 1#16 := hfixed.rd16 (n := 0) (by decide)
  have hpt : rd16 w 2 = 0x0800#16 := hfixed.rd16 (n := 2) (by decide)
  have hhl : (byteAt w 4).toNat = 6 := congrArg BitVec.toNat (hfixed 4 (by decide))
  have hpl : (byteAt w 5).toNat = 4 := congrArg BitVec.toNat (hfixed 5 (by decide))
  have hsha : rd48 w 8 = macOf src := (hsrc.rd48 (n := 0) (Nat.le_add_right 6 4)).trans (rd48_arpPair src)
  have hspa : rd32 w 14 = src.a4 := (hsrc.rd32 (n := 6) (Nat.le_refl 10)).trans (rd32_arpPair src)
  have htha : rd48 w 18 = macOf tgt := (htgt.rd48 (n := 0) (Nat.le_add_right 6 4)).trans (rd48_arpPair tgt)
  have htpa : rd32 w 24 = tgt.a4 := (htgt.rd32 (n := 6) (Nat.le_refl 10)).trans (rd32_arpPair tgt)
  rw [arpAddrs_eq, hhl, hpl, if_neg (by omega), if_neg (by omega), if_neg (by omega), if_neg (by omega)]
  simp [arpKnownInfo, arpInfoOf, hht, hpt, hhl, hpl, hsha, hspa, htha, htpa]

theorem winWrites_args (b : Buf) (l : List (Nat × List Byte)) (s : State) : (s.winWrites b l).args = s.args := by
  induction l generalizing s with
  | nil => rfl
  | cons x l ih => exact (ih _).trans (writeBytes_args s _ _ x.2)

theorem winWrites_params (b : Buf) (l : List (Nat × List Byte)) (s : State) : (s.winWrites b l).params = s.params := by
  induction l generalizing s with
  | nil => rfl
  | cons x l ih => exact (ih _).trans (writeBytes_params s _ _ x.2)

theorem byteAt_winBytes {b : Buf} {s : State} {j : Nat} (hj : j < winLen s) :
    byteAt (winBytes b s) j = s.readByte (spaceOf b) (winBase s + j) :=
  byteAt_readBytes s _ _ _ j hj

/-- Two states whose windows lie at one place and read alike have the same window. -/
theorem winBytes_congr {b : Buf} {s t : State} (h0 : winBase t = winBase s) (h1 : winLen t = winLen s)
    (hread : ∀ j, t.readByte (spaceOf b) j = s.readByte (spaceOf b) j) : winBytes b t = winBytes b s := by
  rw [winBytes, h0, h1]
  exact readBytes_congr fun j _ _ => hread j

theorem byteAt_winBytes_winWrites {b : Buf} (l : List (Nat × List Byte)) {s : State} {j : Nat} (hj : j < winLen s) :
    byteAt (winBytes b (s.winWrites b l)) j = byteAfter j (byteAt (winBytes b s) j) l := by
  have hbase : winBase (s.winWrites b l) = winBase s := by rw [winBase, winWrites_args, winBase]
  have hlen : winLen (s.winWrites b l) = winLen s := by rw [winLen, winWrites_args, winLen]
  rw [byteAt_winBytes (hlen ▸ hj), hbase, readByte_winWrites, byteAt_winBytes hj]

/-- With HWK = PRK = 0 both types of a set command are known (30_encoding.md R87). -/
theorem unknown_bits_clear {s : State} (h : s.args.a3.extractLsb' 16 2 = 0#2) : argHwk s = false ∧ argPrk s = false := by
  have hbit (k : Nat) (hk : k < 2) : s.args.a3.getLsbD (16 + k) = false := by
    have hk' := congrArg (fun v : BitVec 2 => v.getLsbD k) h
    simpa [BitVec.getLsbD_extractLsb', hk] using hk'
  exact ⟨hbit 0 (by decide), hbit 1 (by decide)⟩

/-- A MAC address and the protocol address after it, written apart, are the pair. -/
theorem pairByte_eq (a : Args) (ha j : Nat) (old : Byte) :
    (if ha + 6 ≤ j ∧ j < ha + 6 + 4 then byteAt (wr32 a.a4) (j - (ha + 6))
      else if ha ≤ j ∧ j < ha + 6 then byteAt (wr48 (macOf a)) (j - ha) else old)
      = if ha ≤ j ∧ j < ha + 10 then byteAt (arpPair a) (j - ha) else old := by
  rw [arpPair, byteAt_append, wr48_length, Nat.sub_sub]
  by_cases hpr : ha + 6 ≤ j ∧ j < ha + 6 + 4
  · rw [if_pos hpr, if_pos (by omega), if_neg (by omega)]
  · rw [if_neg hpr]
    by_cases hhw : ha ≤ j ∧ j < ha + 6
    · rw [if_pos hhw, if_pos (by omega), if_pos (by omega)]
    · rw [if_neg hhw, if_neg (by omega)]

/-- A set command of both known types, on a window that has room for both pairs. -/
theorem arpPairSet_of_exec {side : ArpSide} {b : Buf} {s t : State} (hin : WindowFits b s) (hlen : 28 ≤ winLen s)
    (ha3 : s.args.a3.extractLsb' 16 2 = 0#2) (hexec : exec (arpSetInstr side b) s = .next t) :
    t.args = s.args ∧ t.params = s.params ∧ ArpPairSet side s.args (winBytes b s) (winBytes b t) := by
  obtain ⟨hhwk, hprk⟩ := unknown_bits_clear ha3
  have hhl : arpSetHlen false (winBytes b s) = 6 := rfl
  have hpl : arpSetPlen false (winBytes b s) = 4 := rfl
  have hpa := arpPrOff_known side
  obtain ⟨hlo, hhi⟩ := arpHwOff_known_bounds side
  have hneed : arpNeed side s (winBytes b s) ≤ 28 := by
    rw [arpNeed, hhwk, hprk, hhl, hpl, arpSetEnd, hpa]
    simp only [Bool.false_eq_true, if_false]
    omega
  have hwin := winBytes_length b s
  have hok := arpSetMap_ok side b s (w := winBytes b s) (by omega) (by omega)
  obtain rfl := Host.Outcome.next.inj (hexec.symm.trans (exec_inside_ok (exec_arpSetInstr side b s) hin hok))
  refine ⟨winWrites_args b _ s, winWrites_params b _ s, fun j hj => ?_⟩
  have hcomplete (v : State) : winBytes b (complete v) = winBytes b v := winBytes_congr rfl rfl fun _ => rfl
  rw [hcomplete, byteAt_winBytes_winWrites _ (hwin ▸ hj), byteAfter_arpSetWrites, ← pairByte_eq]
  simp only [hhwk, hprk, hhl, hpl, hpa, if_false, Bool.false_eq_true, true_and]
  rfl

/-- One set command, and then that of the other side with other operands in the same window, leave both pairs. -/
theorem pairs_of_exec_exec {x y : ArpSide} (hxy : y ≠ x) {b : Buf} {s t u : State} {a : Args} (hin : WindowFits b s)
    (hlen : 28 ≤ winLen s) (hs3 : s.args.a3.extractLsb' 16 2 = 0#2) (ha3 : a.a3.extractLsb' 16 2 = 0#2)
    (h0 : a.a0 = s.args.a0) (h1 : a.a1 = s.args.a1) (ht : exec (arpSetInstr x b) s = .next t)
    (hu : exec (arpSetInstr y b) { t with args := a } = .next u) :
    WindowFits b u ∧ 28 ≤ winLen u ∧ HoldsAt (winBytes b u) 0 arpKnownFixed
      ∧ HoldsAt (winBytes b u) (arpHwOff x 6 4) (arpPair s.args) ∧ HoldsAt (winBytes b u) (arpHwOff y 6 4) (arpPair a) := by
  obtain ⟨htargs, htparams, hfirst⟩ := arpPairSet_of_exec hin hlen hs3 ht
  have hmid : winBytes b { t with args := a } = winBytes b t := by
    refine winBytes_congr ?_ ?_ fun _ => rfl
    · rw [winBase, winBase, htargs, ← h0]
    · rw [winLen, winLen, htargs, ← h1]
  have hinMid : WindowFits b { t with args := a } := by
    simp only [WindowFits, winBase, winLen, htparams, h0, h1]
    exact hin
  have hlenMid : 28 ≤ winLen { t with args := a } := by
    simp only [winLen, h1]
    exact hlen
  obtain ⟨huargs, huparams, hsecond⟩ := arpPairSet_of_exec hinMid hlenMid ha3 hu
  have hlen' : 28 ≤ (winBytes b { t with args := a }).length := winBytes_length b _ ▸ hlenMid
  refine ⟨?_, ?_, hsecond.fixed hlen', hsecond.keeps hlen' hxy (hmid ▸ hfirst.pair (winBytes_length b s ▸ hlen)),
    hsecond.pair hlen'⟩
  · simpa only [WindowFits, winBase, winLen, huargs, huparams] using hinMid
  · simpa only [winLen, huargs] using hlenMid

/-- Settles O42: ARP_PARSE reads back the fixed part and the two pairs, which lie apart. -/
theorem arpMapRoundTrip : Obligations.ArpMapRoundTrip := by
  intro b srcFirst s t u a first second src tgt hin hlen hs3 ha3 h0 h1 ht hu
  have hread : WindowFits b u ∧ 28 ≤ winLen u ∧ HoldsAt (winBytes b u) 0 arpKnownFixed
      ∧ HoldsAt (winBytes b u) 8 (arpPair src) ∧ HoldsAt (winBytes b u) 18 (arpPair tgt) := by
    cases srcFirst with
    | true => exact pairs_of_exec_exec (x := .src) (y := .tgt) (by decide) hin hlen hs3 ha3 h0 h1 ht hu
    | false =>
      obtain ⟨hin', hlen', hfixed, htgt, hsrc⟩ :=
        pairs_of_exec_exec (x := .tgt) (y := .src) (by decide) hin hlen hs3 ha3 h0 h1 ht hu
      exact ⟨hin', hlen', hfixed, hsrc, htgt⟩
  obtain ⟨hin', hlen', hfixed, hsrc, htgt⟩ := hread
  have haddrs := arpAddrs_known (winBytes_length b u ▸ hlen') hfixed hsrc htgt
  exact ⟨_, exec_inside_ok rfl hin' (arpParseBody_ok haddrs u), rfl, arpKnownInfo_r0 _ _ _, arpKnownInfo_r1 _ _ _,
    macOf_high src, congrArg (BitVec.setWidth 32) (macOf_low src), rfl, macOf_high tgt,
    congrArg (BitVec.setWidth 32) (macOf_low tgt), rfl⟩

end Sys2Proof.Machine
end

section
/-!
PROOFS. The IPv4 statements (44_ipv4.md). The decoding is put in the terms of the statements once (`ipv4Decode_eq`), and
reassembly is reduced to one state, that of a fragment stored in its claimed slot.
-/

namespace Sys2Proof.Machine

open Sys2Proof

/-! ### The fields of an IPv4 header (44_ipv4.md R200, 30_encoding.md R107) -/

theorem ipv4HdrLen_eq_ihl4 (w : List Byte) : ipv4HdrLen w = ihl4 w := by
  rw [ipv4HdrLen, BitVec.extractLsb'_toNat, Nat.shiftRight_zero, ihl4]

theorem ihl4_lt (w : List Byte) : ihl4 w < 2 ^ 8 := by
  unfold ihl4
  omega

theorem ipv4TotalLen_eq_totalLen (w : List Byte) : ipv4TotalLen w = totalLen w := toNat_append_byte _ _

theorem dfFlag_rd16 (w : List Byte) : dfFlag (rd16 w 6) = (byteAt w 6).getLsbD 6 :=
  getLsbD_append_high _ _ (by decide)

theorem mfFlag_rd16 (w : List Byte) : mfFlag (rd16 w 6) = (byteAt w 6).getLsbD 5 :=
  getLsbD_append_high _ _ (by decide)

theorem fragOff_rd16 (w : List Byte) : fragOff (rd16 w 6) = fragOctets w := by
  have hlow := (byteAt w 7).isLt
  have hword : (rd16 w 6).toNat = (byteAt w 6).toNat * 0x100 + (byteAt w 7).toNat := toNat_append_byte _ _
  rw [fragOff, BitVec.extractLsb'_toNat, Nat.shiftRight_zero, hword, fragOctets]
  omega

theorem fragOctets_lt (w : List Byte) : fragOctets w < 2 ^ 16 := by
  have hlow := (byteAt w 7).isLt
  unfold fragOctets
  omega

theorem ofNat_totalLen (w : List Byte) : BitVec.ofNat 16 (totalLen w) = byteAt w 2 ++ byteAt w 3 := by
  rw [← ipv4TotalLen_eq_totalLen, ipv4TotalLen, BitVec.ofNat_toNat, BitVec.setWidth_eq, rd16]

/-! ### The decoding (44_ipv4.md R201, R202) -/

/-- What `ipv4_decode` returns of a packet that passes its checks (R202). -/
def ipv4InfoOf (bypass : Bool) (w : List Byte) : Ipv4Info :=
  { verIhl := byteAt w 0
    hl := ihl4 w
    tl := totalLen w
    dscp := (byteAt w 1).extractLsb' 2 6
    ecn := (byteAt w 1).extractLsb' 0 2
    ident := rd16 w 4
    df := (byteAt w 6).getLsbD 6
    mf := (byteAt w 6).getLsbD 5
    off := fragOctets w
    ttl := byteAt w 8
    proto := byteAt w 9
    ck := rd16 w 10
    src := rd32 w 12
    dst := rd32 w 16
    csumOk := csumOkFlag bypass (w.take (ihl4 w)) }

/-- Everything `ipv4_decode` can answer, its four errors in their order (R201). -/
theorem ipv4Decode_eq (bypass : Bool) (w : List Byte) :
    ipv4Decode bypass w =
      if w.length < 20 then .error (truncatedErr 20)
      else if w.length < ihl4 w then .error (truncatedErr (ihl4 w))
      else if totalLen w < ihl4 w then
        .error { code := .malformed, info := BitVec.ofNat 16 (ihl4 w) ++ BitVec.ofNat 16 (totalLen w) }
      else if w.length < totalLen w then .error (truncatedErr (totalLen w))
      else .ok (ipv4InfoOf bypass w) := by
  rw [ipv4Decode, ipv4CheckLen, ipv4HdrLen_eq_ihl4, ipv4TotalLen_eq_totalLen, dfFlag_rd16, mfFlag_rd16, fragOff_rd16]
  split_ifs <;> rfl

theorem ipv4Decode_of_fits {w : List Byte} (h : Ipv4Fits w) (bypass : Bool) :
    ipv4Decode bypass w = .ok (ipv4InfoOf bypass w) := by
  obtain ⟨h20, hhl, hle, htl⟩ := h
  rw [ipv4Decode_eq, if_neg (Nat.not_lt.2 h20), if_neg (Nat.not_lt.2 hhl), if_neg (Nat.not_lt.2 hle),
    if_neg (Nat.not_lt.2 htl)]

theorem ipv4Decode_of_not_fits {w : List Byte} (h : ¬ Ipv4Fits w) (bypass : Bool) :
    ∃ e, ipv4Decode bypass w = .error e := by
  rw [ipv4Decode_eq]
  split_ifs with h20 hhl hle htl
  · exact ⟨_, rfl⟩
  · exact ⟨_, rfl⟩
  · exact ⟨_, rfl⟩
  · exact ⟨_, rfl⟩
  · exact absurd ⟨Nat.not_lt.1 h20, Nat.not_lt.1 hhl, Nat.not_lt.1 hle, Nat.not_lt.1 htl⟩ h

theorem csumOk_iff (s : State) (w : List Byte) : (ipv4InfoOf s.ctrl.csumBypass w).csumOk = true ↔ HeaderSumOk s w := by
  simp [ipv4InfoOf, csumOkFlag, HeaderSumOk]

/-! ### IPV4_PARSE (44_ipv4.md R203, 30_encoding.md R95) -/

theorem ipv4ParseBody_error {s : State} {w : List Byte} {e : Err} (h : ipv4Decode s.ctrl.csumBypass w = .error e) :
    ipv4ParseBody s w = .error e := by
  rw [ipv4ParseBody, h]

theorem ipv4ParseBody_ok {s : State} {w : List Byte} {f : Ipv4Info} (h : ipv4Decode s.ctrl.csumBypass w = .ok f) :
    ipv4ParseBody s w = .ok { s with res := ipv4Results (winBase s) f } := by
  rw [ipv4ParseBody, h]

section registers
variable (base : Nat) (f : Ipv4Info)

theorem ipv4Results_r0 :
    (ipv4Results base f).r0.extractLsb' 0 8 = f.verIhl ∧ (ipv4Results base f).r0.extractLsb' 8 8 = BitVec.ofNat 8 f.hl
      ∧ (ipv4Results base f).r0.extractLsb' 16 16 = BitVec.ofNat 16 f.tl := by
  unfold ipv4Results
  refine ⟨extract_right _ _, ?_, ?_⟩
  · rw [extract_high _ _ _ (by omega), extract_right]
  · rw [extract_high _ _ _ (by omega), extract_left]

theorem ipv4Results_r1_bytes :
    (ipv4Results base f).r1.extractLsb' 0 6 = f.dscp ∧ (ipv4Results base f).r1.extractLsb' 6 2 = f.ecn
      ∧ (ipv4Results base f).r1.extractLsb' 8 8 = f.ttl ∧ (ipv4Results base f).r1.extractLsb' 16 8 = f.proto := by
  unfold ipv4Results
  refine ⟨extract_right _ _, ?_, ?_, ?_⟩
  · rw [extract_high _ _ _ (by omega), extract_right]
  · rw [extract_high _ _ _ (by omega), extract_high _ _ _ (by omega), extract_right]
  · rw [extract_high _ _ _ (by omega), extract_high _ _ _ (by omega), extract_high _ _ _ (by omega), extract_right]

theorem ipv4Results_r1_flags :
    (ipv4Results base f).r1.getLsbD 24 = f.df ∧ (ipv4Results base f).r1.getLsbD 25 = f.mf
      ∧ (ipv4Results base f).r1.getLsbD 26 = f.csumOk ∧ (ipv4Results base f).r1.extractLsb' 27 5 = 0#5 := by
  unfold ipv4Results
  refine ⟨?_, ?_, ?_, ?_⟩
  · simp only [getLsbD_append_high, getLsbD_append_bit, Nat.reduceLeDiff, Nat.reduceSub, Nat.le_refl]
  · simp only [getLsbD_append_high, getLsbD_append_bit, Nat.reduceLeDiff, Nat.reduceSub, Nat.le_refl]
  · simp only [getLsbD_append_high, getLsbD_append_bit, Nat.reduceLeDiff, Nat.reduceSub, Nat.le_refl]
  · simp (disch := decide) only [extract_high, Nat.reduceSub, BitVec.extractLsb'_eq_self]

theorem ipv4Results_r2 :
    (ipv4Results base f).r2.extractLsb' 0 16 = f.ident
      ∧ (ipv4Results base f).r2.extractLsb' 16 16 = BitVec.ofNat 16 f.off :=
  ⟨extract_right _ _, extract_left _ _⟩

theorem ipv4Results_r3 :
    (ipv4Results base f).r3.extractLsb' 0 16 = f.ck ∧ (ipv4Results base f).r3.extractLsb' 16 16 = 0#16 :=
  setWidth_fields f.ck rfl

end registers

/-- Settles O43: the window's checks are those of `ipv4_decode`, and the registers hold the fields it returns. -/
theorem ipv4ParseReportsHeader : Obligations.Ipv4ParseReportsHeader := by
  refine ⟨windowEncoding_encode .ipv4Parse, boundsChecked_of_buf fun _ => rfl, fun b s hin => ?_⟩
  intro w
  have herror {e : Err} (h : ipv4Decode s.ctrl.csumBypass w = .error e) : EndsWith (.ipv4Parse b) s e.code.toByte e.info :=
    endsWith_inside rfl hin (ipv4ParseBody_error h)
  split_ifs with h20 hhl hle htl
  · exact herror (by rw [ipv4Decode_eq, if_pos h20])
  · exact herror (by rw [ipv4Decode_eq, if_neg h20, if_pos hhl])
  · exact herror (by rw [ipv4Decode_eq, if_neg h20, if_neg hhl, if_pos hle])
  · exact herror (by rw [ipv4Decode_eq, if_neg h20, if_neg hhl, if_neg hle, if_pos htl])
  · have hf : ipv4Decode s.ctrl.csumBypass w = .ok (ipv4InfoOf s.ctrl.csumBypass w) := by
      rw [ipv4Decode_eq, if_neg h20, if_neg hhl, if_neg hle, if_neg htl]
    have hlen : w.length = winLen s := winBytes_length b s
    have hend := window_end_lt hin
    have hplace : ihl4 w ≤ winLen s := by omega
    have hpay : totalLen w - ihl4 w < 2 ^ 32 := by omega
    obtain ⟨hver, hhdr, htot⟩ := ipv4Results_r0 (winBase s) (ipv4InfoOf s.ctrl.csumBypass w)
    obtain ⟨hdscp, hecn, httl, hproto⟩ := ipv4Results_r1_bytes (winBase s) (ipv4InfoOf s.ctrl.csumBypass w)
    obtain ⟨hdf, hmf, hsum, hzero⟩ := ipv4Results_r1_flags (winBase s) (ipv4InfoOf s.ctrl.csumBypass w)
    obtain ⟨hident, hoff⟩ := ipv4Results_r2 (winBase s) (ipv4InfoOf s.ctrl.csumBypass w)
    obtain ⟨hck, hck0⟩ := ipv4Results_r3 (winBase s) (ipv4InfoOf s.ctrl.csumBypass w)
    exact ⟨_, exec_inside_ok rfl hin (ipv4ParseBody_ok hf), hver, hhdr ▸ Nat.mod_eq_of_lt (ihl4_lt w),
      htot.trans (ofNat_totalLen w), hdscp, hecn, httl, hproto, hdf, hmf, hsum ▸ csumOk_iff s w, hzero, hident,
      hoff ▸ Nat.mod_eq_of_lt (fragOctets_lt w), hck, hck0, append_pairs _ _ _ _, append_pairs _ _ _ _,
      word32_winBase_add hin hplace, Nat.mod_eq_of_lt hpay⟩

/-! ### The receive branch in the terms of the statements (44_ipv4.md R204 to R207) -/

/-- The decoded header of a packet that passes its checks, in the state that receives it. -/
abbrev headerOf (s : State) (w : List Byte) : Ipv4Info := ipv4InfoOf s.ctrl.csumBypass w

theorem ipv4Payload_headerOf (s : State) (w : List Byte) : ipv4Payload (headerOf s w) w = ipv4Bytes w :=
  List.drop_take.symm

theorem ipv4Bytes_length {w : List Byte} (h : Ipv4Fits w) : (ipv4Bytes w).length = totalLen w - ihl4 w := by
  obtain ⟨-, -, -, htl⟩ := h
  rw [ipv4Bytes, List.length_drop, List.length_take, Nat.min_eq_left htl]

theorem deliverable_iff (proto : Byte) : deliverable proto = true ↔ Delivered proto := by
  simp [deliverable]

/-- Everything the receive branch can do, its drops in their order (R205, R206). -/
theorem ipv4Receive_eq (s : State) (w : List Byte) :
    ipv4Receive (headerOf s w) w s =
      if s.ctrl.ipCsumEn = true ∧ ¬ HeaderSumOk s w then (s, ipv4Out (headerOf s w) .dropped (some .badCsum) none 0)
      else if byteAt w 8 = 0#8 then (s, ipv4Out (headerOf s w) .dropped (some .ttlZero) none 0)
      else if (byteAt w 6).getLsbD 6 = true then dispatchL4 (headerOf s w) (ipv4Bytes w) none s
      else reassemble (headerOf s w) (ipv4Bytes w) s := by
  have hdrop : (s.ctrl.ipCsumEn && !(headerOf s w).csumOk) = true ↔ s.ctrl.ipCsumEn = true ∧ ¬ HeaderSumOk s w := by
    rw [Bool.and_eq_true, Bool.not_eq_true', ← csumOk_iff, Bool.not_eq_true]
  simp only [ipv4Receive, ipv4Payload_headerOf, hdrop]
  rfl

section dispatch
variable {f : Ipv4Info} (bs : List Byte) (s : State)

theorem dispatchL4_delivered (h : Delivered f.proto) (slot : Option Nat) :
    dispatchL4 f bs slot s = (emitDeliver f.proto bs s, ipv4Out f .delivered none slot bs.length) :=
  if_pos ((deliverable_iff _).2 h)

theorem dispatchL4_ignored (h : ¬ Delivered f.proto) :
    dispatchL4 f bs none s = (s, ipv4Out f .dropped (some .l4Ignored) none 0) :=
  if_neg (mt (deliverable_iff _).1 h)

theorem dispatchL4_ignored_slot (h : ¬ Delivered f.proto) (k : Nat) :
    dispatchL4 f bs (some k) s = (s, ipv4Out f .dropped (some .l4Ignored) (some k) bs.length) :=
  if_neg (mt (deliverable_iff _).1 h)

end dispatch

/-! ### IPV4_INPUT (44_ipv4.md R204, 30_encoding.md R96) -/

theorem ipv4InputBody_error {s : State} {w : List Byte} {e : Err} (h : ipv4Decode s.ctrl.csumBypass w = .error e) :
    ipv4InputBody s w = .error e := by
  rw [ipv4InputBody, ipv4InputOn, h]

theorem outcomeReport_putOutcome (s : State) (o : RxOutcome) (old : Results) (h : s.res = old) :
    OutcomeReport o.outcome.toBits (reasonByte o.reason) o.proto (slotByte o.slot) o.len o.ident old (s.putOutcome o).res := by
  subst h
  exact ⟨⟨res0_outcome o, res0_zero o, res0_reason o, res0_proto o, res0_slot o⟩, ⟨res1_len o, res1_ident o⟩, rfl⟩

section input
variable {b : Buf} {s : State} {o : RxOutcome} (hin : WindowFits b s) (hfits : Ipv4Fits (winBytes b s))
include hin hfits

theorem exec_ipv4Input {t : State} (hr : ipv4Receive (headerOf s (winBytes b s)) (winBytes b s) s = (t, o)) :
    exec (.ipv4Input b) s = .next (complete (t.putOutcome o)) :=
  exec_inside_ok rfl hin (by simp only [ipv4InputBody, ipv4InputOn, ipv4Decode_of_fits hfits, hr])

/-- A receive branch that changes no state: the command writes RES0 and RES1 only. -/
theorem reports_ipv4Input (hr : ipv4Receive (headerOf s (winBytes b s)) (winBytes b s) s = (s, o)) :
    Reports (.ipv4Input b) s
      (OutcomeReport o.outcome.toBits (reasonByte o.reason) o.proto (slotByte o.slot) o.len o.ident s.res) :=
  ⟨_, exec_ipv4Input hin hfits hr, outcomeReport_putOutcome s o _ rfl⟩

end input

/-- Settles O44: the errors are those of the decoding, which IPV4_PARSE shares, and the drops come in the branch's order. -/
theorem ipv4InputDirect : Obligations.Ipv4InputDirect := by
  refine ⟨windowEncoding_encode .ipv4Input, boundsChecked_of_buf fun _ => rfl, fun b s hin => ?_⟩
  intro w report
  refine ⟨fun hbad => ?_, fun hfits => ?_⟩
  · obtain ⟨e, he⟩ := ipv4Decode_of_not_fits hbad s.ctrl.csumBypass
    exact ⟨_, _, endsWith_inside rfl hin (ipv4InputBody_error he), endsWith_inside rfl hin (ipv4ParseBody_error he)⟩
  · have heq := ipv4Receive_eq s w
    split
    next hsum => exact reports_ipv4Input hin hfits (heq.trans (if_pos hsum))
    next hsum =>
      rw [if_neg hsum] at heq
      split
      next httl => exact reports_ipv4Input hin hfits (heq.trans (if_pos httl))
      next httl =>
        intro hdf
        rw [if_neg httl, if_pos hdf] at heq
        split
        next hproto =>
          rw [dispatchL4_delivered _ _ hproto, ipv4Bytes_length hfits] at heq
          exact ⟨_, exec_ipv4Input hin hfits heq, outcomeReport_putOutcome _ _ _ rfl⟩
        next hproto => exact reports_ipv4Input hin hfits (heq.trans (dispatchL4_ignored _ _ hproto))

/-! ### The slot of an ident (44_ipv4.md R209) -/

theorem slotChosen_exists {slots : List Slot} {id : Half} {k : Nat} (h : SlotChosen slots id k) : ∃ x, slots[k]? = some x := by
  rcases h with ⟨x, hx, -⟩ | ⟨-, x, hx, -⟩
  · exact ⟨x, hx⟩
  · exact ⟨x, hx⟩

/-- No slot below the chosen one holds the ident. -/
theorem slotChosen_lower {slots : List Slot} {id : Half} {k j : Nat} {y : Slot} (h : SlotChosen slots id k) (hj : j < k)
    (hy : slots[j]? = some y) : ¬ (y.valid = true ∧ y.ident = id) := by
  rcases h with ⟨-, -, -, -, hlow⟩ | ⟨hnone, -⟩
  · exact hlow j hj y hy
  · exact hnone y (List.mem_of_getElem? hy)

/-- To claim the slot that an ident already holds changes nothing. -/
theorem claimSlot_own {slots : List Slot} {id : Half} {k : Nat} (hk : k < slots.length) (hv : slots[k].valid = true)
    (hid : slots[k].ident = id) : claimSlot k id slots = slots := by
  refine List.ext_getElem (claimSlot_length k id slots) fun i _ hi => ?_
  rw [claimSlot_getElem k id slots i hi]
  split
  next h =>
    subst h
    rw [← hv, ← hid]
  next => rfl

/-- The slot of the statements is the one `slot_for` picks, and it is claimed for the ident. -/
theorem slotFor_of_slotChosen {slots : List Slot} {id : Half} {k : Nat} (h : SlotChosen slots id k) :
    slotFor id slots = some (k, claimSlot k id slots) := by
  rcases slotFor_cases id slots with ⟨m, hm, hv, hid, heq, hlow⟩ | ⟨m, hm, hfree, heq, hnone, hlow⟩ | ⟨-, hnone, hfull⟩
  · have hkm : k = m := by
      rcases h with ⟨x, hx, hxv, hxid, hxlow⟩ | ⟨hnone, -⟩
      · obtain ⟨hk, rfl⟩ := List.getElem?_eq_some_iff.1 hx
        rcases Nat.lt_trichotomy k m with hlt | heq | hgt
        · exact absurd ⟨hxv, hxid⟩ (hlow k hlt)
        · exact heq
        · exact absurd ⟨hv, hid⟩ (hxlow m hgt _ (List.getElem?_eq_getElem hm))
      · exact absurd ⟨hv, hid⟩ (hnone _ (List.getElem_mem hm))
    rw [heq, hkm, claimSlot_own hm hv hid]
  · have hkm : k = m := by
      rcases h with ⟨x, hx, hxv, hxid, -⟩ | ⟨-, x, hx, hxfree, hxlow⟩
      · exact absurd ⟨hxv, hxid⟩ (hnone x (List.mem_of_getElem? hx))
      · obtain ⟨hk, rfl⟩ := List.getElem?_eq_some_iff.1 hx
        rcases Nat.lt_trichotomy k m with hlt | heq | hgt
        · exact absurd (hlow k hlt) (by simp [hxfree])
        · exact heq
        · exact absurd (hxlow m hgt _ (List.getElem?_eq_getElem hm)) (by simp [hfree])
    rw [heq, hkm]
  · rcases h with ⟨x, hx, hxv, hxid, -⟩ | ⟨-, x, hx, hxfree, -⟩
    · exact absurd ⟨hxv, hxid⟩ (hnone x (List.mem_of_getElem? hx))
    · exact absurd (hfull x (List.mem_of_getElem? hx)) (by simp [hxfree])

theorem slotFor_of_noSlotFor {slots : List Slot} {id : Half} (h : NoSlotFor slots id) : slotFor id slots = none := by
  rcases slotFor_cases id slots with ⟨m, hm, -, hid, -⟩ | ⟨m, hm, hfree, -⟩ | ⟨heq, -⟩
  · obtain ⟨-, hne⟩ := h _ (List.getElem_mem hm)
    exact absurd hid hne
  · obtain ⟨hv, -⟩ := h _ (List.getElem_mem hm)
    exact absurd hv (by simp [hfree])
  · exact heq

/-! ### A fragment in its slot (44_ipv4.md R210, R211) -/

/-- A slot reads alike in two states of one reset when its list of written bytes is the same. -/
theorem readByte_slot_congr {s t : State} {k j : Nat} (he : t.epoch = s.epoch)
    (hdata : t.slots[k]?.map Slot.data = s.slots[k]?.map Slot.data) : t.readByte (.slot k) j = s.readByte (.slot k) j :=
  readByte_congr he (by rw [memOf_slot, memOf_slot, hdata])

/-- A claimed slot keeps the bytes it had (R209). -/
theorem claimSlot_data (k : Nat) (id : Half) (slots : List Slot) :
    (claimSlot k id slots)[k]?.map Slot.data = slots[k]?.map Slot.data := by
  simp [claimSlot, Function.comp_def]

/-- A freed slot keeps the bytes it had (R211). -/
theorem freeSlot_data (k : Nat) (slots : List Slot) : (freeSlot k slots)[k]?.map Slot.data = slots[k]?.map Slot.data := by
  simp [freeSlot, Function.comp_def]

/-- The state after the fragment `p` was stored in the slot `k` claimed for it, which a final fragment then frees. -/
def afterFragment (f : Ipv4Info) (p : List Byte) (k : Nat) (s : State) : State :=
  let stored := storedFragment f p k (claimSlot k f.ident s.slots) s
  { s with slots := if f.mf then stored.slots else freeSlot k stored.slots }

section fragment
variable {f : Ipv4Info} {p : List Byte} {k : Nat} {s : State}

theorem afterFragment_slot_ne {j : Nat} (hj : j ≠ k) : (afterFragment f p k s).slots[j]? = s.slots[j]? := by
  have hstored : (storedFragment f p k (claimSlot k f.ident s.slots) s).slots[j]? = s.slots[j]? := by
    simp [storedFragment_slots, setSlotData, claimSlot, Ne.symm hj]
  rw [afterFragment]
  split
  · exact hstored
  · rw [← hstored]
    simp [freeSlot, Ne.symm hj]

/-- The fragment's slot stays claimed while more fragments are to come. -/
theorem afterFragment_slot_same {x : Slot} (hx : s.slots[k]? = some x) :
    ∃ y, (afterFragment f p k s).slots[k]? = some y ∧ y.ident = f.ident ∧ y.valid = f.mf := by
  obtain ⟨m, hstored⟩ : ∃ m, (storedFragment f p k (claimSlot k f.ident s.slots) s).slots[k]?
      = some { valid := true, ident := f.ident, data := m } := by
    simp [storedFragment_slots, setSlotData, claimSlot, hx]
  rw [afterFragment]
  cases hmf : f.mf with
  | true => exact ⟨_, hstored, rfl, rfl⟩
  | false =>
    refine ⟨{ valid := false, ident := f.ident, data := m }, ?_, rfl, rfl⟩
    simp [freeSlot, hstored]

/-- To free a slot keeps its bytes. -/
theorem readByte_afterFragment_eq (j : Nat) :
    (afterFragment f p k s).readByte (.slot k) j
      = (storedFragment f p k (claimSlot k f.ident s.slots) s).readByte (.slot k) j := by
  refine readByte_slot_congr ?_ ?_
  · rfl
  · rw [afterFragment]
    split
    · rfl
    · exact freeSlot_data _ _

theorem readByte_afterFragment {x : Slot} (hx : s.slots[k]? = some x) (j : Nat) :
    (afterFragment f p k s).readByte (.slot k) j
      = if f.off ≤ j ∧ j < f.off + p.length then p.getD (j - f.off) 0#8 else s.readByte (.slot k) j := by
  have hspace : hasSpace { s with slots := claimSlot k f.ident s.slots } (.slot k) := by
    obtain ⟨hk, -⟩ := List.getElem?_eq_some_iff.1 hx
    simpa [hasSpace] using hk
  rw [readByte_afterFragment_eq, storedFragment, readByte_writeBytes_same _ _ _ _ _ hspace]
  split
  next => exact (List.getD_eq_getElem _ _ _).symm
  next =>
    refine readByte_slot_congr ?_ ?_
    · rfl
    · exact claimSlot_data _ _ _

variable (hfit : ¬ s.params.fragBufSize.toNat < f.off + p.length)
include hfit

theorem reassemble_noSlot (h : NoSlotFor s.slots f.ident) :
    reassemble f p s = (s, ipv4Out f .dropped (some .fragNoSlot) none 0) := by
  rw [reassemble, if_neg hfit, slotFor_of_noSlotFor h]

variable (hk : SlotChosen s.slots f.ident k)
include hk

theorem reassemble_held (hmf : f.mf = true) :
    reassemble f p s = (afterFragment f p k s, ipv4Out f .held none (some k) p.length) := by
  have hafter : afterFragment f p k s = storedFragment f p k (claimSlot k f.ident s.slots) s := by
    rw [afterFragment, if_pos hmf]
    rfl
  rw [reassemble, if_neg hfit, slotFor_of_slotChosen hk, hafter]
  exact if_pos hmf

theorem reassemble_final (hmf : ¬ f.mf = true) :
    reassemble f p s = dispatchL4 f ((afterFragment f p k s).readBytes (.slot k) 0 (f.off + p.length)) (some k)
      (afterFragment f p k s) := by
  rw [reassemble, if_neg hfit, slotFor_of_slotChosen hk, readBytes_congr fun j _ _ => readByte_afterFragment_eq j,
    afterFragment, if_neg hmf]
  exact if_neg hmf

end fragment

/-- From `s` to `t` a command stored the fragment `p` of the ident `id` at offset `off` of slot `k`; `mf` says whether the
slot stays claimed. -/
structure FragmentStored (s t : State) (k : Nat) (id : Half) (off : Nat) (p : List Byte) (mf : Bool) : Prop where
  frame : t = succeeded { s with slots := t.slots, res := t.res, history := t.history }
  others : ∀ j, j ≠ k → t.slots[j]? = s.slots[j]?
  slot : ∃ x, t.slots[k]? = some x ∧ x.ident = id ∧ x.valid = mf
  bytes : ∀ j, t.readByte (.slot k) j
    = if off ≤ j ∧ j < off + p.length then p.getD (j - off) 0#8 else s.readByte (.slot k) j

theorem fragmentStored_afterFragment (f : Ipv4Info) (p : List Byte) {k : Nat} {s : State} {x : Slot}
    (hx : s.slots[k]? = some x) (h : List PortEvent) (o : RxOutcome) :
    FragmentStored s (complete (State.putOutcome { afterFragment f p k s with history := h } o)) k f.ident f.off p f.mf where
  frame := rfl
  others _ hj := afterFragment_slot_ne hj
  slot := afterFragment_slot_same hx
  bytes := readByte_afterFragment hx

/-- A delivery, the results and the completion leave the bytes of every slot. -/
theorem readBytes_delivered (s : State) (proto : Byte) (bs : List Byte) (o : RxOutcome) (k i n : Nat) :
    (complete ((emitDeliver proto bs s).putOutcome o)).readBytes (.slot k) i n = s.readBytes (.slot k) i n :=
  readBytes_congr fun _ _ _ => rfl

/-- A packet with DF = 0 that no header check drops is reassembled. -/
theorem ipv4Receive_fragment {s : State} {w : List Byte} (hadm : Ipv4Admitted s w) (hdf : (byteAt w 6).getLsbD 6 = false) :
    ipv4Receive (headerOf s w) w s = reassemble (headerOf s w) (ipv4Bytes w) s := by
  obtain ⟨hsum, httl⟩ := hadm
  have hchecked : ¬ (s.ctrl.ipCsumEn = true ∧ ¬ HeaderSumOk s w) := fun ⟨hen, hbad⟩ => hbad (hsum hen)
  rw [ipv4Receive_eq, if_neg hchecked, if_neg httl, if_neg (Bool.eq_false_iff.1 hdf)]

section outcomes
variable {b : Buf} {s : State} {id : Half} {off k : Nat} {p : List Byte}
  (hfit : ¬ s.params.fragBufSize.toNat < off + p.length) (hk : SlotChosen s.slots id k)
include hfit hk

/-- A fragment with MF = 1 (R208). -/
theorem exec_fragment_held (hin : FragmentIn b s id off true p) :
    ∃ t, exec (.ipv4Input b) s = .next t ∧ FragmentStored s t k id off p true
      ∧ OutcomeReport 4#4 0x00#8 (byteAt (winBytes b s) 9) (BitVec.ofNat 8 k) p.length id s.res t.res
      ∧ t.history = s.history := by
  obtain ⟨hwin, hfits, hadm, hdf, hmf, rfl, rfl, rfl⟩ := hin
  obtain ⟨x, hx⟩ := slotChosen_exists hk
  have hr := (ipv4Receive_fragment hadm hdf).trans (reassemble_held hfit hk hmf)
  exact ⟨_, exec_ipv4Input hwin hfits hr, hmf ▸ fragmentStored_afterFragment (headerOf s _) _ hx s.history _,
    outcomeReport_putOutcome _ _ _ rfl, rfl⟩

/-- The final fragment of a datagram for ICMP or UDP (R207, R211). -/
theorem exec_fragment_delivered (hin : FragmentIn b s id off false p) (hproto : Delivered (byteAt (winBytes b s) 9)) :
    ∃ t, exec (.ipv4Input b) s = .next t ∧ FragmentStored s t k id off p false
      ∧ OutcomeReport 3#4 0x00#8 (byteAt (winBytes b s) 9) (BitVec.ofNat 8 k) (off + p.length) id s.res t.res
      ∧ t.history = s.history ++ [.deliver (byteAt (winBytes b s) 9) (t.readBytes (.slot k) 0 (off + p.length))] := by
  obtain ⟨hwin, hfits, hadm, hdf, hmf, rfl, rfl, rfl⟩ := hin
  obtain ⟨x, hx⟩ := slotChosen_exists hk
  have hr := (ipv4Receive_fragment hadm hdf).trans (reassemble_final hfit hk (Bool.eq_false_iff.1 hmf))
  rw [dispatchL4_delivered _ _ hproto, readBytes_length] at hr
  refine ⟨_, exec_ipv4Input hwin hfits hr, hmf ▸ fragmentStored_afterFragment (headerOf s _) _ hx (s.history ++ [_]) _,
    outcomeReport_putOutcome _ _ _ rfl, ?_⟩
  rw [readBytes_delivered]
  rfl

/-- The final fragment of a datagram for any other protocol (R207, R211). -/
theorem exec_fragment_ignored (hin : FragmentIn b s id off false p) (hproto : ¬ Delivered (byteAt (winBytes b s) 9)) :
    ∃ t, exec (.ipv4Input b) s = .next t ∧ FragmentStored s t k id off p false
      ∧ OutcomeReport 1#4 0x0B#8 (byteAt (winBytes b s) 9) (BitVec.ofNat 8 k) (off + p.length) id s.res t.res
      ∧ t.history = s.history := by
  obtain ⟨hwin, hfits, hadm, hdf, hmf, rfl, rfl, rfl⟩ := hin
  obtain ⟨x, hx⟩ := slotChosen_exists hk
  have hr := (ipv4Receive_fragment hadm hdf).trans (reassemble_final hfit hk (Bool.eq_false_iff.1 hmf))
  rw [dispatchL4_ignored_slot _ _ hproto, readBytes_length] at hr
  exact ⟨_, exec_ipv4Input hwin hfits hr, hmf ▸ fragmentStored_afterFragment (headerOf s _) _ hx s.history _,
    outcomeReport_putOutcome _ _ _ rfl, rfl⟩

end outcomes

/-- Settles O45: the chosen slot is the one `slot_for` picks, and what is delivered is read from the slot after the store. -/
theorem ipv4InputReassembles : Obligations.Ipv4InputReassembles := by
  intro b s hwin w off p id report hfits hadm hdf
  have hr := ipv4Receive_fragment hadm hdf
  split
  next hover => exact reports_ipv4Input hwin hfits (hr.trans (if_pos hover))
  next hfit =>
    refine ⟨fun hno => reports_ipv4Input hwin hfits (hr.trans (reassemble_noSlot hfit hno)), fun k hk => ?_⟩
    have hin {mf : Bool} (hmf : (byteAt w 6).getLsbD 5 = mf) : FragmentIn b s id off mf p :=
      ⟨hwin, hfits, hadm, hdf, hmf, rfl, rfl, rfl⟩
    cases hmf : (byteAt w 6).getLsbD 5 with
    | true =>
      obtain ⟨t, ht, ⟨hframe, hothers, hslot, hbytes⟩, hend⟩ := exec_fragment_held hfit hk (hin hmf)
      exact ⟨t, ht, hframe, hothers, hslot, hbytes, hend⟩
    | false =>
      by_cases hproto : Delivered (byteAt w 9)
      · obtain ⟨t, ht, ⟨hframe, hothers, hslot, hbytes⟩, hend⟩ := exec_fragment_delivered hfit hk (hin hmf) hproto
        exact ⟨t, ht, hframe, hothers, hslot, hbytes, (if_pos hproto).mpr hend⟩
      · obtain ⟨t, ht, ⟨hframe, hothers, hslot, hbytes⟩, hend⟩ := exec_fragment_ignored hfit hk (hin hmf) hproto
        exact ⟨t, ht, hframe, hothers, hslot, hbytes, (if_neg hproto).mpr hend⟩

/-! ### Three fragments (44_ipv4.md R212) -/

theorem readBytes_append (s : State) (sp : Space) (i m n : Nat) :
    s.readBytes sp i (m + n) = s.readBytes sp i m ++ s.readBytes sp (i + m) n := by
  induction m generalizing i with
  | zero => rw [Nat.zero_add, Nat.add_zero, State.readBytes, List.nil_append]
  | succ m ih =>
    have hindex : i + 1 + m = i + (m + 1) := Nat.add_right_comm i 1 m
    rw [Nat.succ_add, State.readBytes, ih, State.readBytes, List.cons_append, hindex]

section fragmentStored
variable {s t : State} {k off : Nat} {id : Half} {p : List Byte} {mf : Bool} (h : FragmentStored s t k id off p mf)
include h

theorem FragmentStored.params_eq : t.params = s.params := (congrArg State.params h.frame).trans rfl

/-- A stored fragment is read back. -/
theorem FragmentStored.readBytes_own : t.readBytes (.slot k) off p.length = p := by
  refine List.ext_getElem (readBytes_length _ _ _ _) fun i _ hi => ?_
  rw [readBytes_getElem _ _ _ _ _ hi, h.bytes, if_pos (by omega), Nat.add_sub_cancel_left, List.getD_eq_getElem _ _ hi]

/-- Bytes beside a stored fragment stay. -/
theorem FragmentStored.readBytes_beside {i n : Nat} (hbeside : i + n ≤ off ∨ off + p.length ≤ i) :
    t.readBytes (.slot k) i n = s.readBytes (.slot k) i n :=
  readBytes_congr fun j _ _ => by rw [h.bytes, if_neg (by omega)]

end fragmentStored

/-- A slot that stays claimed is the slot chosen for the next fragment of its ident. -/
theorem FragmentStored.slotChosen {s t : State} {k off : Nat} {id : Half} {p : List Byte}
    (h : FragmentStored s t k id off p true) (hk : SlotChosen s.slots id k) : SlotChosen t.slots id k := by
  obtain ⟨x, hx, hid, hv⟩ := h.slot
  refine .inl ⟨x, hx, hv, hid, fun j hj y hy => slotChosen_lower hk hj ?_⟩
  rw [← h.others j (Nat.ne_of_lt hj), hy]

/-- The host cannot write slot memory. -/
theorem readBytes_onlyHostWrites {s t : State} (h : OnlyHostWrites t s) (k i n : Nat) :
    s.readBytes (.slot k) i n = t.readBytes (.slot k) i n := by
  obtain ⟨hslots, hepoch, -, -⟩ := h
  exact readBytes_congr fun j _ _ => readByte_slot_congr hepoch (by rw [hslots])

/-- Two commands that started in `s` and ended in `ta` and `tb` held the fragments `pa` and `pb` in slot `k`. -/
structure BothHeld (s ta tb : State) (id : Half) (k oa : Nat) (pa : List Byte) (ob : Nat) (pb : List Byte) : Prop where
  outcomes : ta.res.r0.extractLsb' 0 4 = 4#4 ∧ tb.res.r0.extractLsb' 0 4 = 4#4
  params : tb.params = s.params
  history : tb.history = s.history
  chosen : SlotChosen tb.slots id k
  first : tb.readBytes (.slot k) oa pa.length = pa
  second : tb.readBytes (.slot k) ob pb.length = pb

theorem BothHeld.swap {s ta tb : State} {id : Half} {k oa ob : Nat} {pa pb : List Byte}
    (h : BothHeld s ta tb id k oa pa ob pb) : BothHeld s ta tb id k ob pb oa pa :=
  ⟨h.outcomes, h.params, h.history, h.chosen, h.second, h.first⟩

/-- Two fragments beside each other are held in the one slot, whichever comes first. -/
theorem exec_two_fragments {ba bb : Buf} {sa sb ta tb : State} {id : Half} {oa ob k : Nat} {pa pb : List Byte}
    (ha : FragmentIn ba sa id oa true pa) (hb : FragmentIn bb sb id ob true pb)
    (hbeside : oa + pa.length ≤ ob ∨ ob + pb.length ≤ oa)
    (hfita : ¬ sa.params.fragBufSize.toNat < oa + pa.length) (hfitb : ¬ sa.params.fragBufSize.toNat < ob + pb.length)
    (hk : SlotChosen sa.slots id k) (hta : exec (.ipv4Input ba) sa = .next ta) (hhost : OnlyHostWrites ta sb)
    (htb : exec (.ipv4Input bb) sb = .next tb) : BothHeld sa ta tb id k oa pa ob pb := by
  have ⟨hslots, _, hparams, hhist⟩ := hhost
  obtain ⟨_, hta', hstoreda, ⟨⟨houta, -⟩, -⟩, hhista⟩ := exec_fragment_held hfita hk ha
  obtain rfl := Host.Outcome.next.inj (hta.symm.trans hta')
  have hkb : SlotChosen sb.slots id k := hslots ▸ hstoreda.slotChosen hk
  have hparamsb : sb.params = sa.params := hparams.trans hstoreda.params_eq
  obtain ⟨_, htb', hstoredb, ⟨⟨houtb, -⟩, -⟩, hhistb⟩ := exec_fragment_held (hparamsb ▸ hfitb) hkb hb
  obtain rfl := Host.Outcome.next.inj (htb.symm.trans htb')
  refine ⟨⟨houta, houtb⟩, hstoredb.params_eq.trans hparamsb, hhistb.trans (hhist.trans hhista), hstoredb.slotChosen hkb,
    ?_, hstoredb.readBytes_own⟩
  rw [hstoredb.readBytes_beside hbeside, readBytes_onlyHostWrites hhost, hstoreda.readBytes_own]

/-- Settles O46: after two fragments in either order the slot holds both payloads, and the final one is written behind them. -/
theorem threeFragmentsReassemble : Obligations.ThreeFragmentsReassemble := by
  intro b1 b2 b3 s1 s2 s3 t1 t2 id p1 p2 p3 k hlen hk horder h3 hproto ht1 hhost1 ht2 hhost2
  obtain ⟨⟨hout1, hout2⟩, hparams, hhist, hk2, hp1, hp2⟩ : BothHeld s1 t1 t2 id k 0 p1 p1.length p2 := by
    rcases horder with ⟨h1, h2⟩ | ⟨h2, h1⟩
    · exact exec_two_fragments h1 h2 (by omega) (by omega) (by omega) hk ht1 hhost1 ht2
    · exact (exec_two_fragments h2 h1 (by omega) (by omega) (by omega) hk ht1 hhost1 ht2).swap
  have ⟨hslots3, _, hparams3, hhist3⟩ := hhost2
  have hk3 : SlotChosen s3.slots id k := hslots3 ▸ hk2
  have hfit : ¬ s3.params.fragBufSize.toNat < p1.length + p2.length + p3.length := by
    rw [hparams3, hparams]
    omega
  obtain ⟨t3, ht3, hstored, ⟨⟨hout3, -⟩, ⟨hlen3, -⟩, -⟩, hdeliver⟩ := exec_fragment_delivered hfit hk3 h3 hproto
  have hfirst : t3.readBytes (.slot k) 0 p1.length = p1 := by
    rw [hstored.readBytes_beside (by omega), readBytes_onlyHostWrites hhost2, hp1]
  have hsecond : t3.readBytes (.slot k) p1.length p2.length = p2 := by
    rw [hstored.readBytes_beside (by omega), readBytes_onlyHostWrites hhost2, hp2]
  have hwhole : t3.readBytes (.slot k) 0 (p1.length + p2.length + p3.length) = p1 ++ p2 ++ p3 := by
    rw [readBytes_append, readBytes_append, Nat.zero_add, Nat.zero_add, hfirst, hsecond, hstored.readBytes_own]
  refine ⟨t3, ht3, hout1, hout2, hout3, hlen3, ?_⟩
  rw [hdeliver, hwhole, hhist3, hhist]

/-! ### FRAG_FLUSH (44_ipv4.md R213) -/

/-- The slot a flush names is freed; every other keeps its VALID bit. -/
theorem valid_after_flush (v : Bool) (t : Byte) (k : Nat) :
    (v && !flushes t k) = if t = 0xFF#8 ∨ t.toNat = k then false else v := by
  have hiff : flushes t k = true ↔ t = 0xFF#8 ∨ t.toNat = k := by simp [flushes]
  by_cases h : t = 0xFF#8 ∨ t.toNat = k
  · rw [if_pos h, hiff.2 h, Bool.not_true, Bool.and_false]
  · rw [if_neg h, Bool.eq_false_iff.2 (mt hiff.1 h), Bool.not_false, Bool.and_true]

theorem flushSlots_getElem? (t : Byte) (slots : List Slot) {k : Nat} {x : Slot} (hx : slots[k]? = some x) :
    (flushSlots t 0 slots)[k]? = some { x with valid := if t = 0xFF#8 ∨ t.toNat = k then false else x.valid } := by
  obtain ⟨hk, rfl⟩ := List.getElem?_eq_some_iff.1 hx
  rw [List.getElem?_eq_getElem (by simpa using hk), flushSlots_getElem t 0 slots k hk, Nat.zero_add, valid_after_flush]

/-- The count of a flush is the number of slots that went from valid to free. -/
theorem flushCount_eq_countP (t : Byte) (n : Nat) (slots : List Slot) :
    flushCount t n slots = (slots.zip (flushSlots t n slots)).countP fun xy => xy.1.valid && !xy.2.valid := by
  induction slots generalizing n with
  | nil => rfl
  | cons x rest ih =>
    have hfreed : (x.valid && !(x.valid && !flushes t n)) = (x.valid && flushes t n) := by
      cases x.valid <;> simp
    rw [flushCount, flushSlots, List.zip_cons_cons, List.countP_cons, ← ih, hfreed, Nat.add_comm]

/-- FRAG_FLUSH on a slot number that exists, or on all (R213). -/
theorem exec_fragFlush_inside {s : State} (h : ¬ (argSlot s ≠ 0xFF#8 ∧ s.params.nFragSlots.toNat ≤ (argSlot s).toNat)) :
    exec .fragFlush s = .next (complete { s with
      slots := flushSlots (argSlot s) 0 s.slots
      res := { s.res with r0 := word32 (flushCount (argSlot s) 0 s.slots) } }) :=
  congrArg (fun r => Host.Outcome.next (finish s r)) (if_neg h)

/-- Settles O48: a flush maps every slot, so slots are compared one by one, and the count is over the same pairs. -/
theorem fragFlushFreesSlots : Obligations.FragFlushFreesSlots := by
  refine ⟨plainEncoding_encode .fragFlush, fun s => ?_⟩
  intro n
  split
  next hout => exact congrArg (fun r => Host.Outcome.next (finish s r)) (if_pos hout)
  next hin =>
    exact ⟨_, exec_fragFlush_inside hin, rfl, flushSlots_length _ _ _, fun k x hx => flushSlots_getElem? _ _ hx,
      congrArg word32 (flushCount_eq_countP _ _ _)⟩

end Sys2Proof.Machine
end

section
/-!
PROOFS. The own-address table (45_interface.md R230, R231). Both commands compare entries with the pair of their operands,
and two entries that equal that pair are one.
-/

namespace Sys2Proof.Machine

open Sys2Proof

/-! ### The entry of the operands -/

theorem entryIs_iff (s : State) (e : AddrEntry) : entryIs (argIp s) (argPrefixLen s) e = true ↔ IsOperandEntry s e := by
  have hplen : (e.plen.setWidth 8).toNat = e.plen.toNat := BitVec.toNat_setWidth_of_le (by decide)
  rw [entryIs, Bool.and_eq_true, beq_iff_eq, beq_iff_eq, ← BitVec.toNat_inj (x := e.plen.setWidth 8), hplen]
  rfl

theorem any_entryIs_iff (s : State) :
    s.addrs.any (entryIs (argIp s) (argPrefixLen s)) = true ↔ ∃ e ∈ s.addrs, IsOperandEntry s e := by
  simp only [List.any_eq_true, entryIs_iff]

/-- The entry that ADDR_ADD inserts (R230). -/
def operandEntry (s : State) : AddrEntry := { addr := argIp s, plen := (argPrefixLen s).setWidth 6 }

theorem isOperandEntry_operandEntry {s : State} (hp : (argPrefixLen s).toNat ≤ 32) : IsOperandEntry s (operandEntry s) :=
  ⟨rfl, toNat_plen hp⟩

theorem isOperandEntry_iff_eq {s : State} {e : AddrEntry} (he : IsOperandEntry s e) (x : AddrEntry) :
    IsOperandEntry s x ↔ x = e := by
  obtain ⟨haddr, hplen⟩ := he
  refine ⟨fun ⟨hxaddr, hxplen⟩ => ?_, fun hx => hx ▸ ⟨haddr, hplen⟩⟩
  obtain ⟨xa, xp⟩ := x
  obtain ⟨ea, ep⟩ := e
  obtain rfl : xa = ea := hxaddr.trans haddr.symm
  obtain rfl : xp = ep := BitVec.eq_of_toNat_eq (hxplen.trans hplen.symm)
  rfl

/-- Where one entry equals the pair of the operands, removing that pair is removing that entry. -/
theorem removeAddr_eq_erase {s : State} {e : AddrEntry} (he : IsOperandEntry s e) (t : List AddrEntry) :
    removeAddr (argIp s) (argPrefixLen s) t = t.erase e := by
  induction t with
  | nil => rfl
  | cons x t ih =>
    have hx : entryIs (argIp s) (argPrefixLen s) x = true ↔ x = e := (entryIs_iff s x).trans (isOperandEntry_iff_eq he x)
    simp only [removeAddr, List.erase_cons, beq_iff_eq, hx, ih]

theorem nodup_of_sorted {t : List AddrEntry} (h : t.Pairwise fun x y => x.key.toNat < y.key.toNat) : t.Nodup := by
  refine h.imp ?_
  rintro x _ hlt rfl
  exact Nat.lt_irrefl _ hlt

/-! ### ADDR_ADD and ADDR_DEL -/

/-- What ADDR_ADD does, its four ends in their order (R230). -/
theorem addrAddBody_eq (s : State) :
    addrAddBody s =
      if 32 < (argPrefixLen s).toNat then .error { code := .badPrefix, info := (argPrefixLen s).setWidth 32 }
      else if ∃ e ∈ s.addrs, IsOperandEntry s e then .ok (putCount s)
      else if s.params.nIpAddrs.toNat ≤ s.addrs.length then
        .error { code := .noSpaceAddrs, info := s.params.nIpAddrs.setWidth 32 }
      else .ok (putCount { s with addrs := insertAddr (operandEntry s) s.addrs }) := by
  simp only [addrAddBody, any_entryIs_iff]
  rfl

/-- Settles O50: the four ends are those of the command, and insertion keeps a sorted table sorted. -/
theorem addrAddInserts : Obligations.AddrAddInserts := by
  refine ⟨plainEncoding_encode .addrAdd, fun s hsound => ?_⟩
  obtain ⟨hsorted, -, hlen⟩ := hsound
  have hexec {r : Except Err State} (h : addrAddBody s = r) : exec .addrAdd s = .next (finish s r) :=
    congrArg (fun r => Host.Outcome.next (finish s r)) h
  have heq := addrAddBody_eq s
  change if 32 < (argPrefixLen s).toNat then _ else _
  split
  next hbad => exact hexec (heq.trans (if_pos hbad))
  next hp =>
    rw [if_neg hp] at heq
    split
    next hold => exact hexec (heq.trans (if_pos hold))
    next hnew =>
      rw [if_neg hnew] at heq
      split
      next hfull => exact hexec (heq.trans (if_pos hfull.ge))
      next hroom =>
        rw [if_neg (by omega)] at heq
        have he := isOperandEntry_operandEntry (Nat.le_of_not_lt hp)
        have hfresh : operandEntry s ∉ s.addrs := fun hmem => hnew ⟨_, hmem, he⟩
        refine ⟨_, hexec heq, ?_, insertAddr_length _ _, insertAddr_sorted hsorted hfresh, fun x => ?_⟩
        · rw [← insertAddr_length (operandEntry s) s.addrs]
          rfl
        · rw [isOperandEntry_iff_eq he, or_comm]
          exact mem_insertAddr

/-- Settles O51: the entry that equals the operands is erased, and a strictly sorted table holds it once. -/
theorem addrDelRemoves : Obligations.AddrDelRemoves := by
  refine ⟨plainEncoding_encode .addrDel, fun s hsound => ?_⟩
  obtain ⟨hsorted, -, -⟩ := hsound
  split
  next hfound =>
    have ⟨e, hmem, he⟩ := hfound
    have hlen : (s.addrs.erase e).length + 1 = s.addrs.length := List.length_erase_add_one hmem
    have hexec : exec .addrDel s = .next (complete (putCount { s with addrs := s.addrs.erase e })) := by
      rw [← removeAddr_eq_erase he]
      exact congrArg (fun r => Host.Outcome.next (finish s r)) (if_pos ((any_entryIs_iff s).2 hfound))
    refine ⟨_, hexec, ?_, hlen, hsorted.sublist List.erase_sublist, fun x => ?_⟩
    · rw [← hlen, Nat.add_sub_cancel]
      rfl
    · rw [isOperandEntry_iff_eq he, and_comm]
      exact (nodup_of_sorted hsorted).mem_erase_iff
  next hnone =>
    exact congrArg (fun r => Host.Outcome.next (finish s r)) (if_neg (mt (any_entryIs_iff s).1 hnone))

end Sys2Proof.Machine
end

section
/-!
PROOFS. What RX_POLL does with the frame it consumes (45_interface.md R233, R234, R242, R247). The statements follow from
`poll_cases`, which lists every end of a poll; the later sections evaluate the poll on one kind of frame.
-/

namespace Sys2Proof.Machine

open Sys2Proof

/-! ### Frames consumed or not there (R233, R234) -/

/-- Settles O52: the word of RES0 is the encoding of `pollNoFrame`. -/
theorem pollWithoutFrame : Obligations.PollWithoutFrame := by
  refine ⟨plainEncoding_encode .rxPoll, fun s hp => ?_⟩
  have hres0 : pollNoFrame.res0 = 0xFF000000#32 := by decide
  have hres1 : pollNoFrame.res1 = 0#32 := by decide
  have hexec : exec .rxPoll s = .next (complete (s.putOutcome pollNoFrame)) :=
    congrArg Host.Outcome.next (if_neg (by simp [hp]))
  rw [hexec, State.putOutcome, hres0, hres1]
  rfl

@[simp] theorem rxFrame_length (s : State) : (rxFrame s).length = s.rxLen.toNat := readBytes_length s _ _ _

/-- The state in which a poll works on its frame: the one before the command with PENDING clear (R234). -/
def consumed (s : State) : State := { s with rxPending := false }

section consumed
variable (s : State)

@[simp] theorem consumed_params : (consumed s).params = s.params := rfl

@[simp] theorem consumed_ctrl : (consumed s).ctrl = s.ctrl := rfl

@[simp] theorem consumed_vlanCfg : (consumed s).vlanCfg = s.vlanCfg := rfl

@[simp] theorem consumed_rxLen : (consumed s).rxLen = s.rxLen := rfl

@[simp] theorem rxFrame_consumed : rxFrame (consumed s) = rxFrame s := readBytes_congr fun _ _ _ => rfl

@[simp] theorem dstAccepted_consumed (dst : Mac) : dstAccepted (consumed s) dst = dstAccepted s dst := rfl

end consumed

/-- `poll_cases` in the name of the consumed state. -/
theorem rxPoll_cases {s t : State} (h : exec .rxPoll s = .next t) :
    (s.rxPending = false ∧ t = complete (s.putOutcome pollNoFrame)) ∨ (s.rxPending = true ∧ PollEnd (consumed s) t) :=
  poll_cases h

/-- A pending frame: RX_POLL is the poll of that frame, with the answers that its ports draw. -/
theorem exec_rxPoll_pending {s : State} (hp : s.rxPending = true) :
    exec .rxPoll s = .next
      (finishPoll (pollFrame (Config.arpLearnAnswer s.draws) (Config.sendAnswer (s.draws + 1)) (consumed s))) :=
  congrArg Host.Outcome.next (if_pos hp)

/-- Settles O53: no end of a poll touches PENDING, RX_BUF or RX_LEN, and the length check comes first. -/
theorem pollConsumesTheFrame : Obligations.PollConsumesTheFrame := by
  refine fun s hp => ⟨?_, fun hlen => ?_⟩
  · obtain ⟨t, ht⟩ := exec_answers .rxPoll s
    rcases rxPoll_cases ht with ⟨hnone, -⟩ | ⟨-, hend⟩
    · exact absurd hp (by simp [hnone])
    · rw [hend.frame] at ht
      exact ⟨_, ht, rfl, rfl, rfl⟩
  · rw [exec_rxPoll_pending hp, pollFrame, consumed_rxLen, consumed_params, if_pos hlen]
    rfl

/-! ### What survives an error (R247) -/

theorem toByte_ne_deviceSend {c : ErrCode} (h : c ≠ .deviceSend) : c.toByte ≠ 0x0F#8 := by
  cases c with
  | deviceSend => exact absurd rfl h
  | _ => decide

/-- An end of a poll that is an error: DEVICE_SEND with the reply and the requests, or any other error alone. -/
theorem PollEnd.error_cases {s t : State} (h : PollEnd s t) (herr : t.status.err = true) :
    (t = { s with status := t.status, errInfo := t.errInfo } ∧ t.status.errCode ≠ 0x0F#8)
      ∨ (t = { s with
          status := t.status, errInfo := t.errInfo, txBuf := t.txBuf, txLen := t.txLen, history := t.history,
          draws := t.draws } ∧ t.status.errCode = 0x0F#8) := by
  cases h with
  | error e he =>
    exact .inl ⟨rfl, toByte_ne_deviceSend he⟩
  | sendFailed q =>
    generalize replyTo q s = reply
    exact .inr ⟨rfl, rfl⟩
  | drop | ipv4 | arpDrop | replied => cases herr

/-- Settles O18: the two kinds of error differ in what they leave of the reply and the history. -/
theorem pollErrorSurvivors : Obligations.PollErrorSurvivors := by
  intro s t ht herr
  rcases rxPoll_cases ht with ⟨-, rfl⟩ | ⟨hp, hend⟩
  · cases herr
  · refine ⟨hp, ?_, fun hcode => ?_, exec_history ht⟩
    · rcases hend.error_cases herr with ⟨heq, -⟩ | ⟨heq, -⟩
      · rw [heq]
        rfl
      · exact heq
    · rcases hend.error_cases herr with ⟨heq, -⟩ | ⟨-, hsend⟩
      · rw [heq]
        exact ⟨rfl, rfl, rfl⟩
      · exact absurd hsend hcode

/-! ### The port requests (R242) -/

theorem reasonByte_arp {r : Option DropReason} (h : r ≠ some .arpNoSpace ∧ r ≠ some .arpNotForUs) :
    reasonByte r ≠ 0x05#8 ∧ reasonByte r ≠ 0x06#8 := by
  obtain ⟨hspace, hus⟩ := h
  cases r with
  | none => decide
  | some d =>
    cases d with
    | arpNoSpace => exact absurd rfl hspace
    | arpNotForUs => exact absurd rfl hus
    | _ => decide

theorem outcome_without_request {o : OutcomeCode} (h : o ≠ .delivered ∧ o ≠ .arpReply) :
    o.toBits ≠ 2#4 ∧ o.toBits ≠ 3#4 := by
  obtain ⟨hdelivered, hreply⟩ := h
  cases o with
  | delivered => exact absurd rfl hdelivered
  | arpReply => exact absurd rfl hreply
  | _ => decide

/-- The last clause of the statement: no request, and neither an outcome nor a drop reason that needs one. -/
def NoRequest (s t : State) : Prop :=
  t.history = s.history ∧ ((t.status.err = true ∧ t.status.errCode ≠ 0x0F#8)
    ∨ (t.status.err = false ∧ t.res.r0.extractLsb' 0 4 ≠ 2#4 ∧ t.res.r0.extractLsb' 0 4 ≠ 3#4
      ∧ ¬ (t.res.r0.extractLsb' 0 4 = 1#4
        ∧ (t.res.r0.extractLsb' 8 8 = 0x05#8 ∨ t.res.r0.extractLsb' 8 8 = 0x06#8))))

theorem noRequest_putOutcome {s t : State} {o : RxOutcome} (hhist : t.history = s.history)
    (hout : o.outcome ≠ .delivered ∧ o.outcome ≠ .arpReply)
    (hreason : o.reason ≠ some .arpNoSpace ∧ o.reason ≠ some .arpNotForUs) :
    NoRequest s (complete (t.putOutcome o)) := by
  obtain ⟨hreply, hdelivered⟩ := outcome_without_request hout
  obtain ⟨hus, hspace⟩ := reasonByte_arp hreason
  refine ⟨hhist, .inr ⟨rfl, ?_, ?_, ?_⟩⟩
  · rwa [complete_res, putOutcome_r0, res0_outcome]
  · rwa [complete_res, putOutcome_r0, res0_outcome]
  · rw [complete_res, putOutcome_r0, res0_reason]
    exact fun ⟨_, h⟩ => h.elim hus hspace

/-- Settles O58: each end of a poll makes the requests of one clause. -/
theorem pollPortOrder : Obligations.PollPortOrder := by
  intro s t ht
  rcases rxPoll_cases ht with ⟨-, rfl⟩ | ⟨-, hend⟩
  · exact .inr (.inr (.inr (noRequest_putOutcome rfl (by decide) (by decide))))
  · cases hend with
    | error e he => exact .inr (.inr (.inr ⟨rfl, .inl ⟨rfl, toByte_ne_deviceSend he⟩⟩))
    | drop r hr =>
      exact .inr (.inr (.inr (noRequest_putOutcome rfl (by simp [pollDrop]) (by simpa [pollDrop] using hr))))
    | ipv4 f w hf =>
      obtain ⟨slots, hist, hr, -, -, ⟨hhist, hout⟩ | ⟨bs, hhist, hout, hproto⟩⟩ := ipv4Receive_effect f w (consumed s)
      · refine .inr (.inr (.inr (noRequest_putOutcome ?_ hout (ipv4Receive_reason f w (consumed s)))))
        exact (congrArg State.history hr).trans hhist
      · refine .inr (.inr (.inl ⟨f.proto, bs, (congrArg State.history hr).trans hhist, rfl, ?_, ?_⟩))
        · exact (res0_outcome _).trans (congrArg OutcomeCode.toBits hout)
        · exact (res0_proto _).trans hproto
    | arpDrop q a r hr =>
      refine .inl ⟨q.spa, q.sha, a, rfl, rfl, res0_outcome _, (res0_reason _).trans ?_⟩
      rcases hr with ⟨rfl, rfl⟩ | ⟨rfl, rfl⟩ <;> rfl
    | replied q =>
      generalize replyTo q (consumed s) = reply
      exact .inr (.inl ⟨q.spa, q.sha, reply, .ok, rfl, .inl ⟨rfl, rfl, res0_outcome _⟩⟩)
    | sendFailed q =>
      generalize replyTo q (consumed s) = reply
      exact .inr (.inl ⟨q.spa, q.sha, reply, .fail, rfl, .inr ⟨rfl, rfl, rfl⟩⟩)

end Sys2Proof.Machine
end

section
/-!
PROOFS. RX_POLL on an Ethernet frame, and its checks of an ARP packet (45_interface.md R235, R237, R238). A frame is short,
stopped by a filter, or dispatched by its L3 class; the poll of an ARP packet is then one function of the packet.
-/

namespace Sys2Proof.Machine

open Sys2Proof

/-! ### The way of a frame to the dispatch (R235) -/

theorem L3Class.toBits_inj {x y : L3Class} (h : x.toBits = y.toBits) : x = y := by
  revert h
  cases x <;> cases y <;> decide

theorem dstAccepted_iff (s : State) (w : List Byte) : dstAccepted s (rd48 w 0) = true ↔ DstMatches s w := by
  rw [dstAccepted, Bool.or_eq_true, beq_iff_eq, beq_iff_eq]
  rfl

section ethernet
variable {s : State} (hp : EthernetFramePending s)
include hp

/-- On the Ethernet medium RX_POLL is `poll_ethernet` of the frame. -/
theorem exec_rxPoll_ethernet :
    exec .rxPoll s = .next (finishPoll
      (pollEthernet (Config.arpLearnAnswer s.draws) (Config.sendAnswer (s.draws + 1)) (rxFrame s) (consumed s))) := by
  obtain ⟨hpending, hlen, hmedium⟩ := hp
  rw [exec_rxPoll_pending hpending, pollFrame, consumed_rxLen, consumed_params, consumed_ctrl, rxFrame_consumed, hmedium,
    if_neg (Nat.not_lt.2 hlen), if_neg Bool.false_ne_true]

theorem exec_rxPoll_tooShort {need : Nat} (h : EthTooShort (rxFrame s) need) :
    exec .rxPoll s = .next (raiseErr (wrongLength need) (consumed s)) := by
  rw [exec_rxPoll_ethernet hp, pollEthernet, ethClassify_tooShort h]
  rfl

variable {f : EthInfo} (hf : ethClassify (rxFrame s) = .ok f)
include hf

theorem exec_rxPoll_otherDst (hdst : ¬ DstMatches s (rxFrame s)) :
    exec .rxPoll s = .next (complete ((consumed s).putOutcome (pollDrop .dstMac))) := by
  rw [exec_rxPoll_ethernet hp, pollEthernet, hf]
  simp only [dstAccepted_consumed, dstAccepted_iff, hdst, if_false]
  rfl

theorem exec_rxPoll_vlan (hdst : DstMatches s (rxFrame s)) {r : DropReason}
    (hv : vlanCheck s.vlanCfg f.pkind f.vid0 f.vid1 = some r) :
    exec .rxPoll s = .next (complete ((consumed s).putOutcome (pollDrop r))) := by
  rw [exec_rxPoll_ethernet hp, pollEthernet, hf]
  simp only [dstAccepted_consumed, dstAccepted_iff, hdst, if_true, consumed_vlanCfg, hv]
  rfl

theorem exec_rxPoll_passed (hdst : DstMatches s (rxFrame s)) (hv : vlanCheck s.vlanCfg f.pkind f.vid0 f.vid1 = none) :
    exec .rxPoll s = .next (finishPoll (pollL3 (Config.arpLearnAnswer s.draws) (Config.sendAnswer (s.draws + 1)) f.l3
      ((rxFrame s).drop f.hdr) (consumed s))) := by
  rw [exec_rxPoll_ethernet hp, pollEthernet, hf]
  simp only [dstAccepted_consumed, dstAccepted_iff, hdst, if_true, consumed_vlanCfg, hv]

end ethernet

/-- An accepted frame is dispatched by its L3 class, and its payload lies inside it (R237). -/
theorem exec_rxPoll_accepted {s : State} (hp : EthernetFramePending s) {l3 : L3Class} {hdr : Nat}
    (hacc : FrameAccepted s l3.toBits hdr) :
    hdr ≤ s.rxLen.toNat ∧ exec .rxPoll s = .next (finishPoll (pollL3 (Config.arpLearnAnswer s.draws)
      (Config.sendAnswer (s.draws + 1)) l3 ((rxFrame s).drop hdr) (consumed s))) := by
  obtain ⟨k, e, v0, v1, hshape, hdst, hv⟩ := hacc
  obtain ⟨f, hf, -, rfl, hl3, rfl, rfl, rfl, rfl⟩ := ethClassify_shape hshape
  rw [← reasonByte_vlanCheck, ← isNone_iff_reasonByte, Option.isNone_iff_eq_none] at hv
  exact ⟨rxFrame_length s ▸ ethClassify_hdr_le hf, L3Class.toBits_inj hl3 ▸ exec_rxPoll_passed hp hf hdst hv⟩

/-! ### Frames that a filter stops (R235, R237) -/

/-- What the host reads after a drop before any IPv4 header was parsed (R235). -/
theorem pollDrop_report {t : State} {old : Results} (h : t.res = old) (r : DropReason) :
    OutcomeReport 1#4 r.toByte 0#8 0xFF#8 0 0#16 old (t.putOutcome (pollDrop r)).res :=
  outcomeReport_putOutcome t (pollDrop r) old h

/-- Settles O54: a frame is short, or its classification takes it to one of the filters. -/
theorem pollFiltersFrames : Obligations.PollFiltersFrames := by
  intro s hp w dropped
  have hdropped {r : DropReason} (h : exec .rxPoll s = .next (complete ((consumed s).putOutcome (pollDrop r)))) :
      dropped r.toByte := ⟨_, h, pollDrop_report rfl r⟩
  refine ⟨fun need h => exec_rxPoll_tooShort hp h, fun k l3 hdr e v0 v1 hshape => ⟨fun hdst => ?_, fun hdst hv => ?_,
    fun hdst hv hl3 => ?_⟩⟩
  · obtain ⟨f, hf, -⟩ := ethClassify_shape hshape
    exact hdropped (exec_rxPoll_otherDst hp hf hdst)
  · obtain ⟨f, hf, -, rfl, -, -, -, rfl, rfl⟩ := ethClassify_shape hshape
    rw [← reasonByte_vlanCheck] at hv ⊢
    cases hr : vlanCheck s.vlanCfg f.pkind f.vid0 f.vid1 with
    | none => exact absurd (congrArg reasonByte hr) hv
    | some r => exact hdropped (exec_rxPoll_vlan hp hf hdst hr)
  · have hacc : FrameAccepted s l3 hdr := ⟨k, e, v0, v1, hshape, hdst, hv⟩
    rcases hl3 with rfl | rfl
    · exact hdropped (exec_rxPoll_accepted (l3 := .ipv6) hp hacc).2
    · exact hdropped (exec_rxPoll_accepted (l3 := .other) hp hacc).2

/-! ### The ARP checks of the poll (R238) -/

/-- The addresses of an ARP packet of Ethernet and IPv4 addresses. -/
def arpRequestOf (p : List Byte) : ArpRequest := { sha := rd48 p 8, spa := rd32 p 14, tpa := rd32 p 24 }

/-- Everything the poll's ARP checks can answer, their errors in their order (R238). -/
theorem pollArpCheck_eq (p : List Byte) :
    pollArpCheck p =
      if p.length < 8 then .error { code := .truncated, info := word32 8 }
      else if p.length < 8 + 2 * (byteAt p 4).toNat + 2 * (byteAt p 5).toNat then
        .error { code := .wrongLengthForArpPacket, info := word32 (8 + 2 * (byteAt p 4).toNat + 2 * (byteAt p 5).toNat) }
      else if rd16 p 0 ≠ 1#16 then .error (unexpectedType false (rd16 p 0))
      else if (byteAt p 4).toNat ≠ 6 then
        .error { code := .wrongLengthForEthernetAddress, info := word32 (byteAt p 4).toNat }
      else if rd16 p 2 ≠ 0x0800#16 then .error (unexpectedType true (rd16 p 2))
      else if (byteAt p 5).toNat ≠ 4 then
        .error { code := .wrongLengthForIpv4Address, info := word32 (byteAt p 5).toNat }
      else .ok (arpRequestOf p) := by
  rcases arpCheckLen_cases p with ⟨hshort, h⟩ | ⟨h8, hlen, h⟩ | ⟨h8, hlen, h⟩
  · rw [pollArpCheck, h, if_pos hshort]
  · rw [pollArpCheck, h, if_neg (Nat.not_lt.2 h8), if_pos hlen]
  · rw [pollArpCheck, h, if_neg (Nat.not_lt.2 h8), if_neg (Nat.not_lt.2 hlen)]
    rfl

theorem pollArpCheck_wellFormed {p : List Byte} (h : ArpWellFormed p) : pollArpCheck p = .ok (arpRequestOf p) := by
  obtain ⟨hlen, hht, hhl, hpt, hpl⟩ := h
  have hhl : (byteAt p 4).toNat = 6 := congrArg BitVec.toNat hhl
  have hpl : (byteAt p 5).toNat = 4 := congrArg BitVec.toNat hpl
  rw [pollArpCheck_eq, hhl, hpl, if_neg (by omega), if_neg (by omega), if_neg (not_not_intro hht), if_neg (by decide),
    if_neg (not_not_intro hpt), if_neg (by decide)]

theorem unexpectedType_hardware (ty : Half) : (unexpectedType false ty).info = ty.setWidth 32 :=
  (setWidth_half ty).symm

/-- Bit 16 marks a protocol type (R238). -/
theorem unexpectedType_protocol (ty : Half) : (unexpectedType true ty).info = 0x00010000#32 ||| ty.setWidth 32 := by
  rw [unexpectedType, BitVec.append_def]
  rfl

section arp
variable {s : State} {hdr : Nat} (hp : EthernetFramePending s) (hacc : FrameAccepted s 1#2 hdr)
include hp hacc

/-- On an accepted ARP frame RX_POLL is `poll_arp` of the payload. -/
theorem exec_rxPoll_arp :
    exec .rxPoll s = .next (finishPoll (pollArp (Config.arpLearnAnswer s.draws) (Config.sendAnswer (s.draws + 1))
      ((rxFrame s).drop hdr) (consumed s))) :=
  (exec_rxPoll_accepted (l3 := .arp) hp hacc).2

theorem exec_rxPoll_badArp {e : Err} (he : pollArpCheck ((rxFrame s).drop hdr) = .error e) :
    exec .rxPoll s = .next (errored e.code.toByte e.info (consumed s)) := by
  rw [exec_rxPoll_arp hp hacc, pollArp, he]
  rfl

end arp

/-- Settles O55: the errors are those of the poll's ARP checks, and a packet that passes them all is well formed. -/
theorem pollRejectsBadArp : Obligations.PollRejectsBadArp := by
  intro s hdr hp hacc p hl pl fails
  have hfails {e : Err} (he : pollArpCheck p = .error e) : fails e.code.toByte e.info := exec_rxPoll_badArp hp hacc he
  have heq := pollArpCheck_eq p
  split
  next hshort => exact hfails (heq.trans (if_pos hshort))
  next hshort =>
    rw [if_neg hshort] at heq
    split
    next hlen => exact hfails (heq.trans (if_pos hlen))
    next hlen =>
      rw [if_neg hlen] at heq
      split
      next hht =>
        rw [← unexpectedType_hardware]
        exact hfails (heq.trans (if_pos hht))
      next hht =>
        rw [if_neg hht] at heq
        split
        next hhl => exact hfails (heq.trans (if_pos hhl))
        next hhl =>
          rw [if_neg hhl] at heq
          split
          next hpt =>
            rw [← unexpectedType_protocol]
            exact hfails (heq.trans (if_pos hpt))
          next hpt =>
            rw [if_neg hpt] at heq
            split
            next hpl => exact hfails (heq.trans (if_pos hpl))
            next hpl =>
              have hhl : hl = 6 := not_not.1 hhl
              have hpl : pl = 4 := not_not.1 hpl
              exact ⟨by omega, not_not.1 hht, BitVec.eq_of_toNat_eq hhl, not_not.1 hpt, BitVec.eq_of_toNat_eq hpl⟩

end Sys2Proof.Machine
end

section
/-!
PROOFS. The ARP packet that RX_POLL acts on (45_interface.md R239 to R244): what it learns, and the bytes it answers with.
-/

namespace Sys2Proof.Machine

open Sys2Proof

/-! ### Learning (R239, R243) -/

theorem owned_iff (s : State) (a : IpAddr) : owned s a = true ↔ ∃ e ∈ s.addrs, e.addr = a := by
  simp only [owned, List.any_eq_true, beq_iff_eq]

/-- The state after the learn request for a packet `p` of a consumed frame. -/
def learned (s : State) (p : List Byte) (a : ArpAnswer) : State :=
  emitArpLearn (rd32 p 14) (rd48 p 8) a (consumed s)

section act
variable {s : State} {hdr : Nat} {p : List Byte} (hp : EthernetFramePending s) (hacc : FrameAccepted s 1#2 hdr)
  (hpayload : p = (rxFrame s).drop hdr) (hwf : ArpWellFormed p)
include hp hacc hpayload hwf

/-- On a well-formed ARP packet RX_POLL learns, and then looks at the target. -/
theorem exec_rxPoll_arpAct :
    exec .rxPoll s = .next (finishPoll (pollArpAct (Config.arpLearnAnswer s.draws) (Config.sendAnswer (s.draws + 1))
      (arpRequestOf p) (consumed s))) := by
  rw [exec_rxPoll_arp hp hacc, ← hpayload, pollArp, pollArpCheck_wellFormed hwf]

theorem exec_rxPoll_noSpace (ha : Config.arpLearnAnswer s.draws = .noSpace) :
    exec .rxPoll s = .next (complete ((learned s p .noSpace).putOutcome (pollDrop .arpNoSpace))) := by
  rw [exec_rxPoll_arpAct hp hacc hpayload hwf, ha]
  rfl

theorem exec_rxPoll_notForUs (ha : Config.arpLearnAnswer s.draws = .ok) (hown : ¬ ∃ e ∈ s.addrs, e.addr = rd32 p 24) :
    exec .rxPoll s = .next (complete ((learned s p .ok).putOutcome (pollDrop .arpNotForUs))) := by
  rw [exec_rxPoll_arpAct hp hacc hpayload hwf, ha]
  exact congrArg (fun r => Host.Outcome.next (finishPoll r)) (if_neg (mt (owned_iff s _).1 hown))

end act

/-- Settles O56: the learn request is made before the port's answer and the target decide between the two drops. -/
theorem pollLearnsBeforeFiltering : Obligations.PollLearnsBeforeFiltering := by
  intro s hdr hp hacc p answer hwf hforeign
  cases ha : Config.arpLearnAnswer s.draws with
  | noSpace =>
    have hanswer : answer = .noSpace := ha
    rw [hanswer]
    exact ⟨_, exec_rxPoll_noSpace hp hacc rfl hwf ha, pollDrop_report rfl .arpNoSpace⟩
  | ok =>
    have hanswer : answer = .ok := ha
    have hown : ¬ ∃ e ∈ s.addrs, e.addr = rd32 p 24 := fun ⟨e, he, haddr⟩ => hforeign e he haddr
    rw [hanswer]
    exact ⟨_, exec_rxPoll_notForUs hp hacc rfl hwf ha hown, pollDrop_report rfl .arpNotForUs⟩

/-! ### The bytes of the reply (R240, 42_vlan.md R173) -/

theorem wr16_append (a b : Byte) : wr16 (a ++ b) = [a, b] := by
  rw [wr16, extract_left, extract_right]

theorem wr32_append (x y : Half) : wr32 (x ++ y) = wr16 x ++ wr16 y := by
  rw [wr32, extract_high x y 8 (k := 24) (by decide), extract_high x y 8 (k := 16) (by decide),
    extract_low x y (k := 8) (by decide), extract_low x y (k := 0) (by decide)]
  rfl

theorem wr48_append (x : Word) (y : Half) : wr48 (x ++ y) = wr32 x ++ wr16 y := by
  rw [wr48, extract_left, extract_right]

section numbers
variable {p : List Byte} {i : Nat}

/-- A big-endian number read from a byte string is written as the bytes it was read from (00_scope.md R10). -/
theorem wr16_rd16 (h : i + 2 ≤ p.length) : wr16 (rd16 p i) = (p.drop i).take 2 := by
  have hi : i < p.length := by omega
  have hi' : i + 1 < p.length := by omega
  have hbyte {j : Nat} (hj : j < p.length) : byteAt p j = p[j] := List.getD_eq_getElem p _ hj
  rw [rd16, wr16_append, List.drop_eq_getElem_cons hi, List.drop_eq_getElem_cons hi', hbyte hi, hbyte hi']
  rfl

theorem wr32_rd32 (h : i + 4 ≤ p.length) : wr32 (rd32 p i) = (p.drop i).take 4 := by
  rw [rd32, wr32_append, wr16_rd16 (by omega), wr16_rd16 (by omega), ← List.drop_drop, ← List.take_add]

theorem wr48_rd48 (h : i + 6 ≤ p.length) : wr48 (rd48 p i) = (p.drop i).take 6 := by
  rw [rd48, wr48_append, wr32_rd32 (by omega), wr16_rd16 (by omega), ← List.drop_drop, ← List.take_add]

end numbers

theorem txTags_eq_replyTags (c : VlanCfg) : txTags c = replyTags c := by
  simp only [txTags, replyTags, tagBytes, wr16_tciOf]
  cases c.txTag0 <;> cases c.txTag1 <;> rfl

/-- The reply that the poll builds is the one of the statements. -/
theorem replyTo_eq_replyBytes (s : State) {p : List Byte} (hlen : 28 ≤ p.length) :
    replyTo (arpRequestOf p) s = replyBytes s p := by
  simp only [replyTo, arpReplyFrame, replyBytes, arpRequestOf, ownMac, wr48_append, txTags_eq_replyTags,
    wr48_rd48 (show 8 + 6 ≤ p.length by omega), wr32_rd32 (show 14 + 4 ≤ p.length by omega),
    wr32_rd32 (show 24 + 4 ≤ p.length by omega), List.append_assoc, List.cons_append, List.nil_append]

/-! ### Answering (R240, R241, R244) -/

/-- The two ends of a reply, which differ in the answer of the Send port. -/
theorem finishPoll_reply (snd : SendAnswer) (q : ArpRequest) (s : State) :
    finishPoll (pollArpReplyStep snd q (emitArpLearn q.spa q.sha .ok s)) =
      match snd with
      | .ok => complete ((repliedState q (replyTo q s) .ok s).putOutcome (pollArpReply (replyTo q s).length))
      | .fail => raiseErr { code := .deviceSend, info := 0#32 } (repliedState q (replyTo q s) .fail s) := by
  rcases pollArpReplyStep_cases snd q (emitArpLearn q.spa q.sha .ok s) with ⟨rfl, h⟩ | ⟨rfl, h⟩ <;>
    rw [h, repliedState_eq] <;> rfl

/-- The state after the reply to `p` was written and sent. -/
def answered (s : State) (p : List Byte) (snd : SendAnswer) : State :=
  repliedState (arpRequestOf p) (replyBytes s p) snd (consumed s)

theorem exec_rxPoll_owned {s : State} {hdr : Nat} {p : List Byte} (hp : EthernetFramePending s)
    (hacc : FrameAccepted s 1#2 hdr) (hpayload : p = (rxFrame s).drop hdr) (hwf : ArpWellFormed p)
    (ha : Config.arpLearnAnswer s.draws = .ok) (hown : ∃ e ∈ s.addrs, e.addr = rd32 p 24) :
    exec .rxPoll s = .next (match Config.sendAnswer (s.draws + 1) with
      | .ok => complete ((answered s p .ok).putOutcome (pollArpReply (replyBytes s p).length))
      | .fail => raiseErr { code := .deviceSend, info := 0#32 } (answered s p .fail)) := by
  have hreply : replyTo (arpRequestOf p) (consumed s) = replyBytes s p := replyTo_eq_replyBytes s hwf.1
  have hfin := finishPoll_reply (Config.sendAnswer (s.draws + 1)) (arpRequestOf p) (consumed s)
  rw [hreply] at hfin
  rw [exec_rxPoll_arpAct hp hacc hpayload hwf, ha, answered, answered, ← hfin]
  exact congrArg (fun r => Host.Outcome.next (finishPoll r)) (if_pos ((owned_iff s _).2 hown))

/-- TX_BUF after the bytes `bs` were written to it from byte 0 on. -/
theorem readByte_tx_of_writeBytes {s t : State} {bs : List Byte} (he : t.epoch = s.epoch)
    (htx : t.txBuf = s.txBuf.writeBytes 0 bs) (j : Nat) :
    t.readByte .tx j = if j < bs.length then bs.getD j 0#8 else s.readByte .tx j := by
  have hwrite := readByte_writeBytes_same s .tx 0 j bs trivial
  have hsame : t.readByte .tx j = (s.writeBytes .tx 0 bs).readByte .tx j :=
    readByte_congr (s := s.writeBytes .tx 0 bs) (sp := .tx) he (congrArg (Memory.lookup · j) htx)
  rw [hsame, hwrite]
  split
  next hj => rw [if_pos (by omega), List.getD_eq_getElem _ _ (by omega)]; rfl
  next hj => rw [if_neg (by omega)]

/-- Settles O57: the ends of the poll for an owned target, the reply being written before the Send port answers. -/
theorem pollAnswersArp : Obligations.PollAnswersArp := by
  intro s hdr hp hacc p f hwf hown
  cases ha : Config.arpLearnAnswer s.draws with
  | noSpace => exact ⟨_, exec_rxPoll_noSpace hp hacc rfl hwf ha, pollDrop_report rfl .arpNoSpace⟩
  | ok =>
    have hexec := exec_rxPoll_owned hp hacc rfl hwf ha hown
    refine ⟨s.txBuf.writeBytes 0 f, ?_⟩
    cases hsent : Config.sendAnswer (s.draws + 1) with
    | ok =>
      rw [hsent] at hexec
      exact ⟨_, readByte_tx_of_writeBytes rfl rfl, hexec, outcomeReport_putOutcome _ (pollArpReply f.length) s.res rfl⟩
    | fail =>
      rw [hsent] at hexec
      exact ⟨s.res, readByte_tx_of_writeBytes rfl rfl, hexec, rfl⟩

end Sys2Proof.Machine
end

section
/-!
PROOFS. RX_POLL on an IPv4 packet (45_interface.md R236, R237). The poll's IPv4 branch is the body of IPV4_INPUT, and that
body reads the window's bytes and no operand, so running it with other operands is the same run.
-/

namespace Sys2Proof.Machine

open Sys2Proof

/-! ### The receive branch with other operands (44_ipv4.md R205) -/

/-- The state with other operands. -/
def State.withArgs (s : State) (a : Args) : State := { s with args := a }

section withArgs
variable (s : State) (a : Args)

@[simp] theorem withArgs_params : (s.withArgs a).params = s.params := rfl

@[simp] theorem withArgs_ctrl : (s.withArgs a).ctrl = s.ctrl := rfl

@[simp] theorem withArgs_slots : (s.withArgs a).slots = s.slots := rfl

@[simp] theorem readBytes_withArgs (sp : Space) (i n : Nat) :
    (s.withArgs a).readBytes sp i n = s.readBytes sp i n :=
  readBytes_congr fun _ _ _ => by cases sp <;> rfl

theorem finish_withArgs (r : Except Err State) :
    finish (s.withArgs a) (r.map (·.withArgs a)) = (finish s r).withArgs a := by
  cases r <;> rfl

theorem dispatchL4_withArgs (f : Ipv4Info) (bs : List Byte) (slot : Option Nat) :
    dispatchL4 f bs slot (s.withArgs a) = (dispatchL4 f bs slot s).map (·.withArgs a) id := by
  unfold dispatchL4
  split
  · rfl
  · cases slot <;> rfl

theorem finishFrag_withArgs (f : Ipv4Info) (k len : Nat) :
    finishFrag f k len (s.withArgs a) = (finishFrag f k len s).map (·.withArgs a) id := by
  rw [finishFrag, readBytes_withArgs]
  exact dispatchL4_withArgs { s with slots := freeSlot k s.slots } a f _ _

theorem reassemble_withArgs (f : Ipv4Info) (p : List Byte) :
    reassemble f p (s.withArgs a) = (reassemble f p s).map (·.withArgs a) id := by
  unfold reassemble
  rw [withArgs_slots, withArgs_params]
  split
  · rfl
  · cases slotFor f.ident s.slots with
    | none => rfl
    | some r =>
      obtain ⟨k, slots⟩ := r
      cases f.mf with
      | true => rfl
      | false => exact finishFrag_withArgs (storedFragment f p k slots s) a f k _

theorem ipv4Receive_withArgs (f : Ipv4Info) (w : List Byte) :
    ipv4Receive f w (s.withArgs a) = (ipv4Receive f w s).map (·.withArgs a) id := by
  unfold ipv4Receive
  rw [withArgs_ctrl, dispatchL4_withArgs, reassemble_withArgs]
  repeat' split
  all_goals rfl

theorem ipv4InputBody_withArgs (w : List Byte) :
    ipv4InputBody (s.withArgs a) w = (ipv4InputBody s w).map (·.withArgs a) := by
  unfold ipv4InputBody ipv4InputOn
  rw [withArgs_ctrl]
  cases ipv4Decode s.ctrl.csumBypass w with
  | error e => rfl
  | ok f =>
    simp only [ipv4Receive_withArgs]
    rfl

/-- The body of IPV4_INPUT on the bytes `w`, run with other operands. -/
theorem finish_ipv4InputBody_withArgs (w : List Byte) :
    finish (s.withArgs a) (ipv4InputBody (s.withArgs a) w) = (finish s (ipv4InputBody s w)).withArgs a := by
  rw [ipv4InputBody_withArgs, finish_withArgs]

end withArgs

/-! ### The poll's IPv4 branch -/

theorem finishPoll_pollIpv4 (w : List Byte) (s : State) : finishPoll (pollIpv4 w s) = finish s (ipv4InputBody s w) := by
  unfold pollIpv4 ipv4InputBody
  cases ipv4InputOn s w <;> rfl

theorem drop_readBytes (s : State) (sp : Space) (i : Nat) {k n : Nat} (h : k ≤ n) :
    (s.readBytes sp i n).drop k = s.readBytes sp (i + k) (n - k) := by
  obtain ⟨m, rfl⟩ := Nat.exists_eq_add_of_le h
  rw [readBytes_append, List.drop_left' (readBytes_length s sp i k), Nat.add_sub_cancel_left]

/-- The operands of IPV4_INPUT on the payload of the received frame. -/
def payloadArgs (s : State) (hdr : Nat) : Args := { s.args with a0 := word32 hdr, a1 := word32 (s.rxLen.toNat - hdr) }

/-- IPV4_INPUT on the payload of the received frame is the poll's IPv4 branch, up to the operands. -/
theorem exec_ipv4Input_payload {s : State} {hdr : Nat} (hhdr : hdr ≤ s.rxLen.toNat)
    (hlen : s.rxLen.toNat ≤ s.params.rxBufSize.toNat) :
    exec (.ipv4Input .rx) ((consumed s).withArgs (payloadArgs s hdr)) = .next
      ((finishPoll (pollIpv4 ((rxFrame s).drop hdr) (consumed s))).withArgs (payloadArgs s hdr)) := by
  have hlt := s.rxLen.isLt
  have hbase : winBase ((consumed s).withArgs (payloadArgs s hdr)) = hdr := Nat.mod_eq_of_lt (by omega)
  have hwin : winLen ((consumed s).withArgs (payloadArgs s hdr)) = s.rxLen.toNat - hdr := Nat.mod_eq_of_lt (by omega)
  have hin : WindowFits .rx ((consumed s).withArgs (payloadArgs s hdr)) := by
    rw [WindowFits, hbase, hwin, Nat.add_sub_cancel' hhdr]
    exact hlen
  have hbytes : winBytes .rx ((consumed s).withArgs (payloadArgs s hdr)) = (rxFrame s).drop hdr := by
    rw [winBytes, hbase, hwin, readBytes_withArgs, ← rxFrame_consumed, rxFrame, consumed_rxLen,
      drop_readBytes _ _ _ hhdr, Nat.zero_add]
    rfl
  rw [exec_inside (k := ipv4InputBody _) rfl hin, hbytes, finish_ipv4InputBody_withArgs, finishPoll_pollIpv4]

/-- RX_POLL and IPV4_INPUT on one packet: where RX_POLL is the poll's IPv4 branch, it ends as IPV4_INPUT does. -/
theorem exec_rxPoll_of_ipv4Input {s u : State} {hdr : Nat} (hhdr : hdr ≤ s.rxLen.toNat)
    (hlen : s.rxLen.toNat ≤ s.params.rxBufSize.toNat)
    (hpoll : exec .rxPoll s = .next (finishPoll (pollIpv4 ((rxFrame s).drop hdr) (consumed s))))
    (hinput : exec (.ipv4Input .rx) ((consumed s).withArgs (payloadArgs s hdr)) = .next u) :
    exec .rxPoll s = .next (u.withArgs s.args) := by
  obtain rfl := Host.Outcome.next.inj ((exec_ipv4Input_payload hhdr hlen).symm.trans hinput)
  have hself := finish_ipv4InputBody_withArgs (consumed s) s.args ((rxFrame s).drop hdr)
  rw [hpoll, finishPoll_pollIpv4]
  exact congrArg Host.Outcome.next hself

/-! ### The IP medium (R236) -/

theorem ipVersion_rxFrame {s : State} (hlen : 1 ≤ s.rxLen.toNat) :
    ipVersion (rxFrame s) = (s.readByte .rx 0).extractLsb' 4 4 := by
  rw [ipVersion, rxFrame, byteAt_readBytes _ _ _ _ _ hlen]

section medium
variable {s : State} (hp : IpPacketPending s)
include hp

/-- On the IP medium RX_POLL is `poll_ip` of the packet. -/
theorem exec_rxPoll_ip : exec .rxPoll s = .next (finishPoll (pollIp (rxFrame s) (consumed s))) := by
  obtain ⟨hpending, hlen, hmedium⟩ := hp
  rw [exec_rxPoll_pending hpending, pollFrame, consumed_rxLen, consumed_params, consumed_ctrl, rxFrame_consumed, hmedium,
    if_neg (Nat.not_lt.2 hlen), if_pos rfl]

theorem exec_rxPoll_emptyPacket (h : s.rxLen = 0#16) :
    exec .rxPoll s = .next (raiseErr (truncatedErr 1) (consumed s)) := by
  have hempty : (rxFrame s).length < 1 := by simp [h]
  rw [exec_rxPoll_ip hp, pollIp, if_pos hempty]
  rfl

variable (hlen : 1 ≤ s.rxLen.toNat)
include hlen

theorem exec_rxPoll_otherVersion (hv : (s.readByte .rx 0).extractLsb' 4 4 ≠ 4#4) :
    exec .rxPoll s = .next (errored 0x09#8 (((s.readByte .rx 0).extractLsb' 4 4).setWidth 32) (consumed s)) := by
  rw [exec_rxPoll_ip hp, pollIp, rxFrame_length, if_neg (Nat.not_lt.2 hlen), ipVersion_rxFrame hlen, if_pos hv]
  rfl

theorem exec_rxPoll_version4 (hv : (s.readByte .rx 0).extractLsb' 4 4 = 4#4) :
    exec .rxPoll s = .next (finishPoll (pollIpv4 (rxFrame s) (consumed s))) := by
  rw [exec_rxPoll_ip hp, pollIp, rxFrame_length, if_neg (Nat.not_lt.2 hlen), ipVersion_rxFrame hlen,
    if_neg (not_not_intro hv)]

end medium

/-- Settles O59: on both media the packet comes to the IPv4 branch; the version is that of a first byte, if there is one. -/
theorem pollRunsIpv4Input : Obligations.PollRunsIpv4Input := by
  refine ⟨fun s u hdr hpacket hinput => ?_, fun s hp => ?_⟩
  · rcases hpacket with ⟨hp, hacc⟩ | ⟨hp, rfl, hlen, hv⟩
    · obtain ⟨hhdr, hpoll⟩ := exec_rxPoll_accepted (l3 := .ipv4) hp hacc
      obtain ⟨-, hfits, -⟩ := hp
      exact exec_rxPoll_of_ipv4Input hhdr hfits hpoll hinput
    · have hpoll := exec_rxPoll_version4 hp hlen hv
      obtain ⟨-, hfits, -⟩ := hp
      exact exec_rxPoll_of_ipv4Input (Nat.zero_le _) hfits hpoll hinput
  · intro v
    refine ⟨fun h => exec_rxPoll_emptyPacket hp h, fun hne hv => exec_rxPoll_otherVersion hp ?_ hv⟩
    exact Nat.one_le_iff_ne_zero.2 fun h => hne (BitVec.eq_of_toNat_eq h)

end Sys2Proof.Machine
end

section
/-!
PROOFS. The reply of RX_POLL reads back (45_interface.md R240). The reply is an Ethernet header of the tags in VLAN_CFG and a
well-formed ARP packet behind it; each of the two parse commands gets back the fields of a window that was built like that.
-/

namespace Sys2Proof.Machine

open Sys2Proof

/-! ### Parsing a window that was built (41_ethernet.md R152, 43_arp.md R183) -/

theorem low_half_setWidth (h : Half) : (h.setWidth 32).extractLsb' 0 16 = h := by
  rw [setWidth_half, extract_right]

theorem mac_of_registers (m : Mac) : m.extractLsb' 16 32 ++ ((m.extractLsb' 0 16).setWidth 32).extractLsb' 0 16 = m := by
  rw [low_half_setWidth]
  exact (BitVec.extractLsb'_append_extractLsb'_eq_extractLsb' rfl).trans BitVec.extractLsb'_eq_self

theorem holdsAt_append (x y z : List Byte) : HoldsAt (x ++ y ++ z) x.length y := by
  intro k hk
  rw [byteAt_append, if_pos (by simp; omega), byteAt_append, if_neg (by omega), Nat.add_sub_cancel_left]

/-- A frame that begins with two MAC addresses and the header of a kind has that kind's shape. -/
theorem ethShape_built (dst src : Mac) {k : PKind} {et : Half} (v0 v1 : Vid) (z : List Byte) (hback : ReadsBack k et) :
    EthShape (wr48 dst ++ wr48 src ++ protoBytes k et v0 v1 ++ z) k.toBits
      (if k.toBits = 3#3 ∨ k.toBits = 4#3 then 3#2 else l3Code et) (protoNeed k) et
      (if k.toBits = 1#3 ∨ k.toBits = 2#3 then v0 else 0#12) (if k.toBits = 2#3 then v1 else 0#12) := by
  have hlen := protoBytes_length k et v0 v1
  have hheader : HoldsAt (wr48 dst ++ wr48 src ++ protoBytes k et v0 v1 ++ z) 12 (protoBytes k et v0 v1) :=
    holdsAt_append (wr48 dst ++ wr48 src) _ z
  refine ethShape_of_protoBytes ?_ (fun n hn => hheader.rd16 (by omega)) hback
  simp only [List.length_append, wr48_length]
  omega

/-- ETH_PARSE of such a frame. -/
theorem exec_ethParse_built {b : Buf} {s : State} {dst src : Mac} {k : PKind} {et : Half} {v0 v1 : Vid} {z : List Byte}
    (hin : WindowFits b s) (hw : winBytes b s = wr48 dst ++ wr48 src ++ protoBytes k et v0 v1 ++ z)
    (hback : ReadsBack k et) :
    ∃ v, exec (.ethParse b) s = .next v ∧ v.status.err = false ∧ v.res.r0.extractLsb' 0 3 = k.toBits
      ∧ v.res.r0.extractLsb' 4 2 = (if k.toBits = 3#3 ∨ k.toBits = 4#3 then 3#2 else l3Code et)
      ∧ (v.res.r0.extractLsb' 8 8).toNat = protoNeed k
      ∧ v.res.r1.extractLsb' 0 12 = (if k.toBits = 1#3 ∨ k.toBits = 2#3 then v0 else 0#12)
      ∧ v.res.r1.extractLsb' 16 12 = (if k.toBits = 2#3 then v1 else 0#12)
      ∧ v.res.r2 ++ v.res.r3.extractLsb' 0 16 = dst ∧ v.res.r4 ++ v.res.r5.extractLsb' 0 16 = src := by
  obtain ⟨f, hf, hlt, hk, hl3, hhdr, -, hv0, hv1⟩ := ethClassify_shape (ethShape_built dst src v0 v1 z hback)
  rw [← hw] at hf
  have hdst : rd48 (winBytes b s) 0 = dst := by
    rw [hw, List.append_assoc, List.append_assoc]
    exact rd48_wr48_append dst _
  have hsrc : rd48 (winBytes b s) 6 = src := by
    rw [hw, List.append_assoc]
    exact ((holdsAt_append (wr48 dst) (wr48 src) _).rd48 (Nat.le_refl 6)).trans (rd48_wr48_append src [])
  refine ⟨_, exec_inside_ok rfl hin (ethParseBody_ok hf s), rfl, (ethInfo_res0_pkind f).trans hk,
    (ethInfo_res0_l3 f).trans hl3, ?_, (ethInfo_res1_vid0 f).trans hv0, (ethInfo_res1_vid1 f).trans hv1,
    (congrArg (rd32 (winBytes b s) 0 ++ ·) (low_half_setWidth _)).trans hdst,
    (congrArg (rd32 (winBytes b s) 6 ++ ·) (low_half_setWidth _)).trans hsrc⟩
  rw [← hhdr] at hlt ⊢
  exact (congrArg BitVec.toNat (ethInfo_res0_hdr f)).trans (Nat.mod_eq_of_lt hlt)

/-- What `arp_addrs` returns of a packet of Ethernet and IPv4 addresses (R182). -/
theorem arpAddrs_wellFormed {w : List Byte} (h : ArpWellFormed w) :
    arpAddrs w = .ok { htype := 1#16, ptype := 0x0800#16, hlen := 6, plen := 4, sha := rd48 w 8, spa := rd32 w 14,
                       tha := rd48 w 18, tpa := rd32 w 24 } := by
  obtain ⟨hlen, hht, hhl, hpt, hpl⟩ := h
  have hhl : (byteAt w 4).toNat = 6 := congrArg BitVec.toNat hhl
  have hpl : (byteAt w 5).toNat = 4 := congrArg BitVec.toNat hpl
  rw [arpAddrs_eq, hhl, hpl, if_neg (by omega), if_neg (by omega), if_neg (by omega), if_neg (by omega)]
  simp only [arpInfoOf, hht, hpt, hhl, hpl, if_true]

/-- ARP_PARSE of such a packet. -/
theorem exec_arpParse_wellFormed {b : Buf} {s : State} {w : List Byte} (hin : WindowFits b s) (hw : winBytes b s = w)
    (hwf : ArpWellFormed w) :
    ∃ v, exec (.arpParse b) s = .next v ∧ v.status.err = false ∧ v.res.r0 = 0x08000001#32
      ∧ v.res.r1 = rd16 w 6 ++ 0x0406#16
      ∧ v.res.r2 ++ v.res.r3.extractLsb' 0 16 = rd48 w 8 ∧ v.res.r4 = rd32 w 14
      ∧ v.res.r5 ++ v.res.r6.extractLsb' 0 16 = rd48 w 18 ∧ v.res.r7 = rd32 w 24 := by
  subst hw
  have htypes : (0x0800#16 ++ 0x0001#16 : Word) = 0x08000001#32 := by decide
  have hlens : (BitVec.ofNat 8 4 ++ BitVec.ofNat 8 6 : Half) = 0x0406#16 := by decide
  refine ⟨_, exec_inside_ok rfl hin (arpParseBody_ok (arpAddrs_wellFormed hwf) s), rfl, htypes, ?_,
    mac_of_registers _, rfl, mac_of_registers _, rfl⟩
  rw [← hlens]
  exact BitVec.append_assoc (x₁ := rd16 (winBytes b s) 6) (x₂ := BitVec.ofNat 8 4) (x₃ := BitVec.ofNat 8 6)

/-! ### The reply as a header and a packet (R240, 42_vlan.md R173) -/

/-- The protocol variant of a reply with the tags of VLAN_CFG. -/
def replyKind (c : VlanCfg) : PKind := if c.txTag0 then (if c.txTag1 then .qinq else .q) else .l3

/-- How many tags a reply has. -/
def replyTagCount (c : VlanCfg) : Nat := if c.txTag0 = true then (if c.txTag1 = true then 2 else 1) else 0

theorem replyKind_count (c : VlanCfg) :
    (replyKind c = .l3 ∧ replyTagCount c = 0) ∨ (replyKind c = .q ∧ replyTagCount c = 1)
      ∨ (replyKind c = .qinq ∧ replyTagCount c = 2) := by
  unfold replyKind replyTagCount
  cases c.txTag0 <;> cases c.txTag1 <;> simp

theorem readsBack_replyKind (c : VlanCfg) : ReadsBack (replyKind c) 0x0806#16 := by
  rcases replyKind_count c with ⟨h, -⟩ | ⟨h, -⟩ | ⟨h, -⟩ <;> rw [h]
  · exact .inr (.inl rfl)
  · exact (by decide : 0x0806#16 ≠ 0x8100#16)
  · trivial

/-- The header of a reply: its PKIND, its length, its L3 class, and how many tags it has. -/
theorem replyKind_fields (c : VlanCfg) :
    (replyKind c).toBits = BitVec.ofNat 3 (replyTagCount c) ∧ protoNeed (replyKind c) = 14 + 4 * replyTagCount c
      ∧ (if (replyKind c).toBits = 3#3 ∨ (replyKind c).toBits = 4#3 then 3#2 else l3Code 0x0806#16) = 1#2
      ∧ (1 ≤ replyTagCount c → (replyKind c).toBits = 1#3 ∨ (replyKind c).toBits = 2#3)
      ∧ (replyTagCount c = 2 → (replyKind c).toBits = 2#3) := by
  rcases replyKind_count c with ⟨h, hn⟩ | ⟨h, hn⟩ | ⟨h, hn⟩ <;> rw [h, hn] <;> decide

/-- The tags and the EtherType of a reply are the header of its variant. -/
theorem txTags_append_etype (c : VlanCfg) :
    txTags c ++ [0x08#8, 0x06#8] = protoBytes (replyKind c) 0x0806#16 c.vid0 c.vid1 := by
  unfold txTags replyKind
  cases c.txTag0 <;> cases c.txTag1 <;> rfl

/-- The ARP packet of a reply. -/
def replyPacket (own : Mac) (q : ArpRequest) : List Byte :=
  [0x00#8, 0x01#8, 0x08#8, 0x00#8, 0x06#8, 0x04#8, 0x00#8, 0x02#8]
    ++ (wr48 own ++ (wr32 q.tpa ++ (wr48 q.sha ++ wr32 q.spa)))

theorem replyTo_eq_header_packet (q : ArpRequest) (s : State) :
    replyTo q s = wr48 q.sha ++ wr48 (ownMac s) ++ protoBytes (replyKind s.vlanCfg) 0x0806#16 s.vlanCfg.vid0 s.vlanCfg.vid1
      ++ replyPacket (ownMac s) q := by
  rw [← txTags_append_etype, replyTo, arpReplyFrame, replyPacket]
  simp only [List.append_assoc]

theorem replyPacket_wellFormed (own : Mac) (q : ArpRequest) : ArpWellFormed (replyPacket own q) :=
  ⟨Nat.le_refl 28, (by decide : (0x00#8 ++ 0x01#8 : Half) = 0x0001#16), rfl,
    (by decide : (0x08#8 ++ 0x00#8 : Half) = 0x0800#16), rfl⟩

/-- The operation and the addresses of the reply's packet. -/
theorem replyPacket_fields (own : Mac) (q : ArpRequest) :
    rd16 (replyPacket own q) 6 = 2#16 ∧ rd48 (replyPacket own q) 8 = own ∧ rd32 (replyPacket own q) 14 = q.tpa
      ∧ rd48 (replyPacket own q) 18 = q.sha ∧ rd32 (replyPacket own q) 24 = q.spa :=
  ⟨(by decide : (0x00#8 ++ 0x02#8 : Half) = 2#16), rd48_wr48_append own (wr32 q.tpa ++ (wr48 q.sha ++ wr32 q.spa)),
    rd32_wr32_append q.tpa (wr48 q.sha ++ wr32 q.spa), rd48_wr48_append q.sha (wr32 q.spa), rd32_wr32_append q.spa []⟩

/-! ### The reply in TX_BUF -/

/-- TX_BUF begins with the bytes `f`, and they fit in it. -/
structure TxHolds (t : State) (f : List Byte) : Prop where
  fits : f.length ≤ t.params.txBufSize.toNat
  bytes : ∀ j, j < f.length → t.readByte .tx j = byteAt f j

/-- A window over a part of these bytes. -/
theorem TxHolds.window {t : State} {x y z : List Byte} (h : TxHolds t (x ++ y ++ z)) {a : Args}
    (h0 : a.a0 = word32 x.length) (h1 : a.a1 = word32 y.length) :
    WindowFits .tx { t with args := a } ∧ winBytes .tx { t with args := a } = y := by
  obtain ⟨hfits, hbytes⟩ := h
  have hlt := t.params.txBufSize.isLt
  simp only [List.length_append] at hfits hbytes
  have hbase : winBase { t with args := a } = x.length := (congrArg BitVec.toNat h0).trans (Nat.mod_eq_of_lt (by omega))
  have hlen : winLen { t with args := a } = y.length := (congrArg BitVec.toNat h1).trans (Nat.mod_eq_of_lt (by omega))
  refine ⟨?_, ?_⟩
  · rw [WindowFits, hbase, hlen]
    exact (Nat.le_add_right _ _).trans hfits
  · rw [winBytes, hbase, hlen]
    refine List.ext_getElem (readBytes_length _ _ _ _) fun i _ hi => ?_
    rw [readBytes_getElem _ _ _ _ _ hi]
    have hbyte : t.readByte .tx (x.length + i) = byteAt y i :=
      (hbytes _ (by omega)).trans (holdsAt_append x y z i hi)
    exact hbyte.trans (List.getD_eq_getElem _ _ _)

theorem txHolds_of_writeBytes {s t : State} {f : List Byte} (hparams : t.params = s.params) (he : t.epoch = s.epoch)
    (htx : t.txBuf = s.txBuf.writeBytes 0 f) (hfits : f.length ≤ s.params.txBufSize.toNat) : TxHolds t f :=
  ⟨hparams ▸ hfits, fun j hj => (readByte_tx_of_writeBytes he htx j).trans (if_pos hj)⟩

/-- A reply fits in every legal TX_BUF (00_scope.md R7). -/
theorem replyTo_fits (q : ArpRequest) {s : State} (h : s.params.wf = true) :
    (replyTo q s).length ≤ s.params.txBufSize.toNat := by
  have hlen := replyTo_length_le q s
  simp only [Params.wf, Bool.and_eq_true, decide_eq_true_eq] at h
  omega

/-- After a reply, whatever the Send port answered, TX_BUF holds it and TX_LEN its length. -/
theorem exec_rxPoll_txHolds {s : State} {hdr : Nat} {p : List Byte} (hparams : s.params.wf = true)
    (hp : EthernetFramePending s) (hacc : FrameAccepted s 1#2 hdr) (hpayload : p = (rxFrame s).drop hdr)
    (hwf : ArpWellFormed p) (ha : Config.arpLearnAnswer s.draws = .ok) (hown : ∃ e ∈ s.addrs, e.addr = rd32 p 24) :
    ∃ t, exec .rxPoll s = .next t ∧ t.txLen = BitVec.ofNat 16 (replyTo (arpRequestOf p) s).length
      ∧ TxHolds t (replyTo (arpRequestOf p) s) := by
  have hexec := exec_rxPoll_owned hp hacc hpayload hwf ha hown
  have hfits := replyTo_fits (arpRequestOf p) hparams
  rw [replyTo_eq_replyBytes s hwf.1] at hfits ⊢
  cases hsent : Config.sendAnswer (s.draws + 1) with
  | ok | fail =>
    rw [hsent] at hexec
    exact ⟨_, hexec, rfl, txHolds_of_writeBytes (s := s) rfl rfl rfl hfits⟩

/-- Settles O60: the two windows of the statement lie over the whole reply and over its packet. -/
theorem replyParsesBack : Obligations.ReplyParsesBack := by
  intro s hdr a hparams hp hacc p tags replyHdr hwf hown
  cases ha : Config.arpLearnAnswer s.draws with
  | noSpace => exact ⟨_, exec_rxPoll_noSpace hp hacc rfl hwf ha, rfl, rfl⟩
  | ok =>
    obtain ⟨t, ht, htxLen, hholds⟩ := exec_rxPoll_txHolds hparams hp hacc rfl hwf ha hown
    have hframe := replyTo_eq_header_packet (arpRequestOf p) s
    obtain ⟨hkind, hneed, hl3, htag0, htag1⟩ := replyKind_fields s.vlanCfg
    refine ⟨t, ht, ?_, ?_⟩
    · have hlen : t.txLen.setWidth 32 = word32 (replyTo (arpRequestOf p) s).length := by
        have hlt : (replyTo (arpRequestOf p) s).length < 2 ^ 16 := Nat.lt_of_le_of_lt (replyTo_length_le _ _) (by decide)
        rw [htxLen, word32, BitVec.setWidth_ofNat_of_le_of_lt (by decide) hlt]
      rw [← List.append_nil (replyTo _ _)] at hholds
      obtain ⟨hin, hw⟩ := hholds.window (x := []) (a := { a with a0 := 0#32, a1 := t.txLen.setWidth 32 }) rfl hlen
      obtain ⟨v, hv, herr, hvkind, hvl3, hvhdr, hvid0, hvid1, hdst, hsrc⟩ :=
        exec_ethParse_built hin (hw.trans hframe) (readsBack_replyKind s.vlanCfg)
      exact ⟨v, hv, herr, hvkind.trans hkind, hvl3.trans hl3, hvhdr.trans hneed,
        fun h => hvid0.trans (if_pos (htag0 h)), fun h => hvid1.trans (if_pos (htag1 h)), hdst, hsrc⟩
    · rw [hframe, ← List.append_nil (_ ++ replyPacket _ _)] at hholds
      have hhdr : word32 replyHdr = word32 (wr48 (arpRequestOf p).sha ++ wr48 (ownMac s)
          ++ protoBytes (replyKind s.vlanCfg) 0x0806#16 s.vlanCfg.vid0 s.vlanCfg.vid1).length := by
        rw [List.length_append]
        exact congrArg word32 (hneed.symm.trans (protoBytes_length _ _ _ _).symm)
      obtain ⟨hin, hw⟩ := hholds.window (a := { a with a0 := word32 replyHdr, a1 := 28#32 }) hhdr rfl
      obtain ⟨hoper, hsha, hspa, htha, htpa⟩ := replyPacket_fields (ownMac s) (arpRequestOf p)
      obtain ⟨v, hv, herr, hr0, hr1, hvsha, hvspa, hvtha, hvtpa⟩ :=
        exec_arpParse_wellFormed hin hw (replyPacket_wellFormed _ _)
      rw [hoper] at hr1
      exact ⟨v, hv, herr, hr0, hr1, hvsha.trans hsha, hvspa.trans hspa, hvtha.trans htha, hvtpa.trans htpa⟩

end Sys2Proof.Machine
end

section
/-!
PROOFS. The completion statements (60_exceptions.md R260, R261, R268). That every command ends in one of two ways is said
once, in `exec_ends`; the status follows from it, and what stays unchanged is `exec_frame`.
-/

namespace Sys2Proof.Machine

open Sys2Proof

/-! ### The status of a completion (R260, R261) -/

theorem statusSound_complete (s : State) : statusSound (complete s).status (complete s).errInfo :=
  ⟨rfl, fun _ => ⟨rfl, rfl⟩, fun he => (nomatch he)⟩

theorem statusSound_raiseErr (e : Err) (s : State) : statusSound (raiseErr e s).status (raiseErr e s).errInfo :=
  ⟨rfl, fun he => (nomatch he), fun _ => errCode_range e.code⟩

/-! ### How a command ends (R268) -/

theorem PollEnd.ends {s t : State} (h : PollEnd s t) : (∃ u, t = complete u) ∨ ∃ e u, t = raiseErr e u := by
  cases h with
  | drop | ipv4 | arpDrop | replied => exact .inl ⟨_, rfl⟩
  | error | sendFailed => exact .inr ⟨_, _, rfl⟩

/-- A command ends in a successful completion or in an error completion, RX_POLL included. -/
theorem exec_ends {i : Instr} {s t : State} (h : exec i s = .next t) :
    (∃ u, t = complete u) ∨ ∃ e u, t = raiseErr e u := by
  by_cases hi : i = .rxPoll
  · subst hi
    rcases poll_cases h with ⟨-, ht⟩ | ⟨-, hend⟩
    · exact .inl ⟨_, ht⟩
    · exact hend.ends
  · rcases exec_cases hi h with ⟨e, ht⟩ | ⟨u, -, ht⟩
    · exact .inr ⟨e, s, ht⟩
    · exact .inl ⟨u, ht⟩

theorem exec_statusSound {i : Instr} {s t : State} (h : exec i s = .next t) : statusSound t.status t.errInfo := by
  rcases exec_ends h with ⟨u, rfl⟩ | ⟨e, u, rfl⟩
  · exact statusSound_complete u
  · exact statusSound_raiseErr e u

/-- Settles O16: the status is that of a completion, and the frame of a command names none of the other fields. -/
theorem everyCommandCompletes : Obligations.EveryCommandCompletes := by
  intro i s
  obtain ⟨t, ht⟩ := exec_answers i s
  refine ⟨t, ht, exec_statusSound ht, ?_⟩
  rw [exec_frame ht]
  exact ⟨rfl, rfl, rfl, rfl, rfl, rfl, rfl, rfl, rfl, rfl⟩

/-! ### Precise errors (R261) -/

/-- Settles O17: an error completion starts from the state before the command, and a successful one reports no error. -/
theorem errorsArePrecise : Obligations.ErrorsArePrecise := by
  intro i s t hi ht herr
  rcases exec_cases hi ht with ⟨e, rfl⟩ | ⟨u, -, rfl⟩
  · rfl
  · cases herr

end Sys2Proof.Machine
end

section
/-!
PROOFS. The platform reset (70_reset_and_hazards.md R280). It answers a reset state with the parameters of the state before
it, and what a reset state holds is said by `readReg_afterReset` and `slots_afterReset`.
-/

namespace Sys2Proof.Machine

open Sys2Proof

/-- A waiting platform reset is performed, whatever the state (R280). -/
theorem step_reset {s : State} {rest : List HostOp} (hin : s.inbox = .reset :: rest) :
    step s = .next (platformReset { s with inbox := rest }) := by
  simp only [step, stepInbox, hin, perform]

theorem slots_length_afterReset (p : Params) (epoch draws : Nat) (inbox : List HostOp) :
    (State.afterReset p epoch draws inbox).slots.length = p.nFragSlots.toNat :=
  List.length_replicate

/-- Settles O12: the step answers a reset state with the parameters of `s`, so each part is a fact about a reset state. -/
theorem platformResetRestoresResetValues : Obligations.PlatformResetRestoresResetValues := by
  intro s rest hin
  refine ⟨_, step_reset hin, ?registers, ?table, ?slots, ?slotCount, ?history, ?params, ?inbox⟩
  case registers => exact fun _ h1 h2 h3 => readReg_afterReset _ _ _ _ h1 h2 h3
  case slots => exact fun _ hx => slots_afterReset hx
  case slotCount => exact slots_length_afterReset _ _ _ _
  case table | history | params | inbox => rfl

end Sys2Proof.Machine
end
